-- ==== Sys2Proof/Word.lean ====
section
/-! DEFINITION. The word types of the machine (spec/00_scope.md R8, R9, R11). -/

namespace Sys2Proof

/-- A memory byte, or a byte of an instruction. -/
abbrev Byte := BitVec 8

/-- An FP16 datum: 16 bits (R150). -/
abbrev Half := BitVec 16

/-- A 64-bit linear or effective address, or a general register (R25, R36). -/
abbrev Addr := BitVec 64

/-- The storage of one vector register, as wide as the widest `MAXVL`: 512 bits, the value of R7 (R21). How
many of them exist is the parameter `Config.maxVL`. -/
abbrev VecReg := BitVec 512

/-- The storage of one opmask register, as wide as the widest `KWIDTH`: 64 bits, the value of R7 (R23). How many
of them exist is the parameter `Config.kWidth`. -/
abbrev MaskReg := BitVec 64

end Sys2Proof
end

