-- ==== Sys2Proof/Config.lean ====
section
/-! DEFINITION. The implementation parameters of spec/00_scope.md R7, and the model's free choices.
`Config` is plain data carried by the state and never written by a step (log 1), so that a statement
about every state is a statement about every configuration. -/

namespace Sys2Proof

/-- `MAXVL` of R7, the width of a vector register: one of the widths that R21 names (log 25). -/
inductive VectorWidth where
  /-- The width of `xmm`. -/
  | w128
  /-- The width of `ymm`. -/
  | w256
  /-- The width of `zmm` (the spec's value). -/
  | w512
  deriving DecidableEq, Repr

/-- The number of bits. -/
def VectorWidth.toNat : VectorWidth → Nat
  | .w128 => 128
  | .w256 => 256
  | .w512 => 512

/-- `KWIDTH` of R7, the width of an opmask register (log 25). -/
inductive MaskWidth where
  | w8
  | w16
  | w32
  /-- The spec's value. -/
  | w64
  deriving DecidableEq, Repr

/-- The number of bits. -/
def MaskWidth.toNat : MaskWidth → Nat
  | .w8 => 8
  | .w16 => 16
  | .w32 => 32
  | .w64 => 64

/-- `MODE` of R7. -/
inductive Mode where
  /-- 64-bit mode. -/
  | mode64
  /-- Compatibility or protected 32-bit mode, in the restricted form of R93. -/
  | mode32
  deriving DecidableEq, Repr

/-- `VA_BITS` of R7: 48, or 57 with 5-level paging. -/
inductive VaBits where
  | va48
  | va57
  deriving DecidableEq, Repr

/-- The number of implemented linear-address bits. -/
def VaBits.toNat : VaBits → Nat
  | .va48 => 48
  | .va57 => 57

/-- The kind of an access, the second argument of `Translate` (R58). -/
inductive AccessKind where
  | fetch
  | read
  deriving DecidableEq, Repr

/-- One range of linear addresses (both ends included) that `Translate` refuses for one kind of access,
with the page-fault error code it answers (R58). -/
structure FaultRange where
  kind : AccessKind
  first : Addr
  last : Addr
  code : BitVec 32
  deriving DecidableEq, Repr

/-- `MASKED_OFF_MEM` of R7 and R60. -/
inductive MaskedOffMem where
  /-- No access is made and no memory fault can occur. -/
  | suppress
  /-- The access and its checks are made as if the mask bit were 1. -/
  | perform
  /-- Both outcomes are admitted at every such step (the spec's value). -/
  | either
  deriving DecidableEq, Repr

/-- `AC_PF_ORDER` of R7 and R210. -/
inductive AcPfOrder where
  | acFirst
  | pfFirst
  /-- Both are admitted (the spec's value). -/
  | either
  deriving DecidableEq, Repr

/-- `LL3_WITHOUT_B` of R7 and R77. -/
inductive Ll3WithoutB where
  /-- The encoding raises #UD (the spec's value). -/
  | ud
  /-- The length field is ignored, as its other values are. -/
  | ignore
  deriving DecidableEq, Repr

/-- `NAN_ORDER` of R7: the order in which the multiplicand `x`, the multiplier `y` and the subtrahend `z`
are searched for the NaN that is propagated (R157). -/
inductive NanOrder where
  /-- The order of the formula (the spec's value, decision D12). -/
  | xyz
  | xzy
  | yxz
  | yzx
  | zxy
  | zyx
  deriving DecidableEq, Repr

/-- The parameters of R7 that change the arithmetic. -/
structure FpParams where
  /-- `FP16_HONOURS_DAZ_FTZ` (R33, R171). -/
  honoursDazFtz : Bool
  /-- `NAN_ORDER` (R157). -/
  nanOrder : NanOrder
  /-- `INFZERO_QNAN_IE` (R158). -/
  infZeroQnanIE : Bool
  deriving DecidableEq, Repr

/-- The values R7 gives these parameters for this hardware. -/
def FpParams.thisHardware : FpParams where
  honoursDazFtz := false
  nanOrder := .xyz
  infZeroQnanIE := false

/-- The parameters of R7 that are not the value of a register. -/
structure Config where
  /-- `MAXVL`. -/
  maxVL : VectorWidth
  /-- `MODE`. -/
  mode : Mode
  /-- `NVREG` in `Mode64`. -/
  nVReg64 : Nat
  /-- `NVREG` in `Mode32`. -/
  nVReg32 : Nat
  /-- `KWIDTH`. -/
  kWidth : MaskWidth
  /-- `VA_BITS`. -/
  vaBits : VaBits
  /-- `Translate`, as the ranges it refuses; the first range that matches answers (R58, log 3). -/
  pageFaults : List FaultRange
  /-- `CODE_END` (R246). -/
  codeEnd : Addr
  /-- `MASKED_OFF_MEM` (R60). -/
  maskedOffMem : MaskedOffMem
  /-- `AC_PF_ORDER` (R210). -/
  acPfOrder : AcPfOrder
  /-- `LL3_WITHOUT_B` (R77). -/
  ll3 : Ll3WithoutB
  /-- `FP16_HONOURS_DAZ_FTZ`, `NAN_ORDER` and `INFZERO_QNAN_IE`. -/
  fp : FpParams
  deriving DecidableEq, Repr

/-- `NVREG` of R7, the number of addressable vector registers: its value depends on `MODE`. -/
def Config.nVReg (c : Config) : Nat :=
  match c.mode with
  | .mode64 => c.nVReg64
  | .mode32 => c.nVReg32

/-- FREE VALUE (log 4): whether the n-th free choice makes the access of a masked-off memory operand,
where `MASKED_OFF_MEM` is `either` (R60). Nothing constrains it. -/
opaque Config.maskedOffPerforms : Nat → Bool

/-- FREE VALUE (log 5): whether the n-th free choice reports #AC before #PF, where `AC_PF_ORDER` is
`either` (R210). Nothing constrains it. -/
opaque Config.alignmentFirst : Nat → Bool

end Sys2Proof
end

