-- ==== Sys2Proof/Syntax.lean ====
section
/-! DEFINITION. The six instructions and their operands (spec/30_encoding.md). The operands keep every
bit of an encoding that R94 does not make #UD, the ignored bits among them (93_implementation_defined.md I26),
so that an instruction determines its bytes. -/

namespace Sys2Proof

/-- The seven legacy prefix bytes that may precede the `62H` (R72). -/
inductive LegacyPrefix where
  /-- `26H` -/
  | es
  /-- `2EH` -/
  | cs
  /-- `36H` -/
  | ss
  /-- `3EH` -/
  | ds
  /-- `64H` -/
  | fs
  /-- `65H` -/
  | gs
  /-- `67H`, address size -/
  | addrSize
  deriving DecidableEq, Repr

/-- Whether the byte is one of the six segment overrides (R72). -/
def LegacyPrefix.isSegment : LegacyPrefix → Bool
  | .addrSize => false
  | .es | .cs | .ss | .ds | .fs | .gs => true

/-- The opmask registers that can be a writemask: `k0` is not one of them (R24). -/
inductive WriteMaskReg where
  | k1 | k2 | k3 | k4 | k5 | k6 | k7
  deriving DecidableEq, Repr

/-- The number of the opmask register, the value of `EVEX.aaa` (R91). -/
def WriteMaskReg.toBits : WriteMaskReg → BitVec 3
  | .k1 => 1 | .k2 => 2 | .k3 => 3 | .k4 => 4 | .k5 => 5 | .k6 => 6 | .k7 => 7

/-- The writemask of an instruction (R91, R113). Zeroing without a writemask is #UD and has no term. -/
inductive WriteMask where
  /-- `aaa` = 000b, `z` = 0. -/
  | unmasked
  /-- `aaa` ≠ 000b, `z` = 0. -/
  | merging (r : WriteMaskReg)
  /-- `aaa` ≠ 000b, `z` = 1. -/
  | zeroing (r : WriteMaskReg)
  deriving DecidableEq, Repr

/-- The rounding modes (R153). -/
inductive RoundMode where
  /-- 00b: to nearest, ties to the even significand. -/
  | rn
  /-- 01b: toward −∞. -/
  | rd
  /-- 10b: toward +∞. -/
  | ru
  /-- 11b: toward zero. -/
  | rz
  deriving DecidableEq, Repr

/-- What `EVEX.b` and `P2[6:5]` say in the register form (R76, R77). -/
inductive RoundCtl where
  /-- `b` = 0: the mode comes from `MXCSR.RC`; `ll` is the length field `L'L`. -/
  | dynamic (ll : BitVec 2)
  /-- `b` = 1: embedded rounding with all exceptions suppressed. -/
  | embedded (rm : RoundMode)
  deriving DecidableEq, Repr

/-- The displacement of a memory operand that has a base register (R84, R87, R88). -/
inductive Disp where
  /-- `mod` = 00b. -/
  | none
  /-- `mod` = 01b; the displacement added is twice this byte. -/
  | disp8 (d : BitVec 8)
  /-- `mod` = 10b. -/
  | disp32 (d : BitVec 32)
  deriving DecidableEq, Repr

/-- The memory forms of operand 3 (R84 to R86). `x` and `bx` are the bits `X` and `B` (the complements of
the stored bits) where they are ignored. -/
inductive MemOperand where
  /-- No SIB byte, base register `b`. -/
  | base (x : BitVec 1) (b : BitVec 4) (disp : Disp)
  /-- `mod` = 00b, `rm` = 101b: RIP-relative in `Mode64`, `disp32` alone in `Mode32`. -/
  | ripDisp (x : BitVec 1) (bx : BitVec 1) (disp : BitVec 32)
  /-- SIB byte with base register `b`, index number `i` (0100b: no index) and scale `2^ss`. -/
  | sib (ss : BitVec 2) (i : BitVec 4) (b : BitVec 4) (disp : Disp)
  /-- SIB byte with `bs` = 101b and `mod` = 00b: no base. -/
  | sibNoBase (ss : BitVec 2) (i : BitVec 4) (bx : BitVec 1) (disp : BitVec 32)
  deriving DecidableEq, Repr

/-- Operand 3, `xmm3/m16`, with what `EVEX.b` and `L'L` say beside it. -/
inductive Operand3 where
  /-- Register form, `mod` = 11b (R83). -/
  | reg (s3 : BitVec 5) (rc : RoundCtl)
  /-- Memory form; `ll` is the length field `L'L` (R77). `b` = 1 is #UD here and has no term (R76). -/
  | mem (ll : BitVec 2) (m : MemOperand)
  deriving DecidableEq, Repr

/-- The operands of one instruction: its legacy prefixes in address order, operand 1 `dest` (R81),
operand 2 `src2` (R82), operand 3 and the writemask. -/
structure Operands where
  legacy : List LegacyPrefix
  dest : BitVec 5
  src2 : BitVec 5
  src3 : Operand3
  mask : WriteMask
  deriving DecidableEq, Repr

/-- The six instructions, one constructor for each row of spec/opcode_table.json (R78). -/
inductive Instr where
  | vfmsub132sh (ops : Operands)
  | vfmsub213sh (ops : Operands)
  | vfmsub231sh (ops : Operands)
  | vfnmsub132sh (ops : Operands)
  | vfnmsub213sh (ops : Operands)
  | vfnmsub231sh (ops : Operands)
  deriving DecidableEq, Repr

/-- The operands of an instruction. -/
def Instr.ops : Instr → Operands
  | .vfmsub132sh ops => ops
  | .vfmsub213sh ops => ops
  | .vfmsub231sh ops => ops
  | .vfnmsub132sh ops => ops
  | .vfnmsub213sh ops => ops
  | .vfnmsub231sh ops => ops

/-- The number of displacement bytes (R71). -/
def Disp.length : Disp → Nat
  | .none => 0
  | .disp8 _ => 1
  | .disp32 _ => 4

/-- `nsib + ndisp` of R71 for a memory operand. -/
def MemOperand.length : MemOperand → Nat
  | .base _ _ d => d.length
  | .ripDisp _ _ _ => 4
  | .sib _ _ _ d => 1 + d.length
  | .sibNoBase _ _ _ _ => 5

/-- `nsib + ndisp` of R71 for operand 3. -/
def Operand3.length : Operand3 → Nat
  | .reg _ _ => 0
  | .mem _ m => m.length

/-- `len = npfx + 6 + nsib + ndisp` (R71). -/
def Operands.length (ops : Operands) : Nat :=
  ops.legacy.length + 6 + ops.src3.length

/-- The length of an instruction in bytes (R71). -/
def Instr.length (i : Instr) : Nat := i.ops.length

end Sys2Proof
end

