-- ==== Sys2Proof/WellFormed.lean ====
section
/-! DEFINITION. Which terms of `Instr` are encodings this spec admits in a mode (spec/30_encoding.md
R71, R72, R84, R85, R89, R93). -/

namespace Sys2Proof

/-- A number that `Mode32` can name: 0 to 7, all extension bits 0 (R93). -/
def regOk (m : Mode) (v : Nat) : Bool :=
  match m with
  | .mode64 => true
  | .mode32 => v < 8

/-- A base register whose low three bits are 101b has no form without a displacement (R84, R85). -/
def Disp.okFor (b : BitVec 4) : Disp → Bool
  | .none => b.extractLsb' 0 3 != 5#3
  | .disp8 _ => true
  | .disp32 _ => true

/-- The shapes of a memory operand that have an encoding: `rm` = 100b always means a SIB byte (R84), and
in `Mode32` every extension bit is 0 (R93). -/
def MemOperand.wf (m : Mode) : MemOperand → Bool
  | .base x b d => b.extractLsb' 0 3 != 4#3 && d.okFor b && regOk m b.toNat && (m == .mode64 || x == 0)
  | .ripDisp x bx _ => m == .mode64 || (x == 0 && bx == 0)
  | .sib _ i b d => d.okFor b && regOk m b.toNat && regOk m i.toNat
  | .sibNoBase _ i bx _ => regOk m i.toNat && (m == .mode64 || bx == 0)

/-- Operand 3 is well formed. -/
def Operand3.wf (m : Mode) : Operand3 → Bool
  | .reg s3 _ => regOk m s3.toNat
  | .mem _ mo => mo.wf m

/-- At most one segment override (R72), and no `67H` prefix in `Mode32` (R89). -/
def legacyOk (m : Mode) (l : List LegacyPrefix) : Bool :=
  (l.filter LegacyPrefix.isSegment).length ≤ 1 && (m == .mode64 || !l.contains .addrSize)

/-- The operands are well formed: the prefixes and the register numbers are admitted and the
instruction has at most 15 bytes (R71). -/
def Operands.wf (m : Mode) (o : Operands) : Bool :=
  legacyOk m o.legacy && regOk m o.dest.toNat && regOk m o.src2.toNat && o.src3.wf m && o.length ≤ 15

/-- A well-formed instruction of a mode. -/
def Instr.wf (m : Mode) (i : Instr) : Bool := i.ops.wf m

end Sys2Proof
end

