-- ==== Sys2Proof/Decode.lean ====
section
/-! DEFINITION. Decoding and encoding (spec/30_encoding.md R70 to R97). The decoder pulls the bytes one by
one from a reader, so that the machine's fetch can fail at any byte (R110 step 1, R210 step 1); it refuses
as soon as the bytes read exclude the six instructions (log 15). -/

namespace Sys2Proof

/-- Why bytes are refused: this spec gives them no meaning (R95). -/
inductive RejectReason where
  /-- The first byte after the prefixes is not `62H` (R95, R96). -/
  | notEvex
  /-- More than one segment override (R72, decision D9). -/
  | manySegments
  /-- A `67H` prefix in `Mode32`, the 16-bit address size (R89, decision D9). -/
  | addressSize16
  /-- `mmm` ≠ 110b: another opcode map (R74). -/
  | otherMap
  /-- `W` = 1 (R75, 90_conflicts.md C8). -/
  | otherW
  /-- `pp` ≠ 01b (R75). -/
  | otherPp
  /-- `OPC` is none of the six opcode bytes (R78). -/
  | otherOpcode
  /-- A register-extension bit in `Mode32` that is not in its "registers 0 to 7" value (R93, decision D8). -/
  | mode32Extension
  /-- Every byte of the address space is a prefix. -/
  | endlessPrefixes
  /-- The list given to `decode` ends before the instruction does; memory never does. -/
  | truncated
  deriving DecidableEq, Repr

/-- What a decoder answers (R95). -/
inductive Decoded where
  /-- One of the six instructions. -/
  | instr (i : Instr)
  /-- A #UD case of R94. -/
  | ud
  /-- An instruction longer than 15 bytes: #GP(0) (R71). -/
  | gp0
  /-- No meaning in this spec. -/
  | refused (r : RejectReason)
  deriving DecidableEq, Repr

/-! ## Codes of the fields -/

/-- The byte of a legacy prefix (R72). -/
def LegacyPrefix.toByte : LegacyPrefix → Byte
  | .es => 0x26
  | .cs => 0x2E
  | .ss => 0x36
  | .ds => 0x3E
  | .fs => 0x64
  | .gs => 0x65
  | .addrSize => 0x67

/-- The legacy prefix a byte is, if it is one of the seven (R72). -/
def LegacyPrefix.ofByte (b : Byte) : Option LegacyPrefix :=
  [LegacyPrefix.es, .cs, .ss, .ds, .fs, .gs, .addrSize].find? fun p => p.toByte == b

/-- A prefix byte that makes the instruction #UD: `66H`, `F2H`, `F3H`, `F0H`, and in `Mode64` a REX byte
`40H` to `4FH` (R72, R202 U8). -/
def forbiddenPrefix (m : Mode) (b : Byte) : Bool :=
  b == 0x66 || b == 0xF2 || b == 0xF3 || b == 0xF0 || (m == .mode64 && b.extractLsb' 4 4 == 4#4)

/-- `SET_RM` (R153): the rounding mode of a 2-bit code, the same in `EVEX.RC` and `MXCSR.RC`. -/
def RoundMode.ofBits (c : BitVec 2) : RoundMode :=
  if c == 0 then .rn else if c == 1 then .rd else if c == 2 then .ru else .rz

/-- The 2-bit code of a rounding mode (R153). -/
def RoundMode.toBits : RoundMode → BitVec 2
  | .rn => 0
  | .rd => 1
  | .ru => 2
  | .rz => 3

/-- The writemask register `k[aaa]`, none for `aaa` = 000b (R91). -/
def WriteMaskReg.ofBits (aaa : BitVec 3) : Option WriteMaskReg :=
  [WriteMaskReg.k1, .k2, .k3, .k4, .k5, .k6, .k7].find? fun r => r.toBits == aaa

/-- The writemask that `z` and `aaa` encode; none for the #UD combination `z` = 1, `aaa` = 000b (R91). -/
def WriteMask.ofBits (z : Bool) (aaa : BitVec 3) : Option WriteMask :=
  match WriteMaskReg.ofBits aaa with
  | none => if z then none else some .unmasked
  | some r => some (if z then .zeroing r else .merging r)

/-- The opcode bytes of the six instructions (R78). -/
def opcodeTable : List (Byte × (Operands → Instr)) :=
  [(0x9B, .vfmsub132sh), (0xAB, .vfmsub213sh), (0xBB, .vfmsub231sh),
   (0x9F, .vfnmsub132sh), (0xAF, .vfnmsub213sh), (0xBF, .vfnmsub231sh)]

/-- The opcode byte of an instruction (R78). -/
def Instr.opcode : Instr → Byte
  | .vfmsub132sh _ => 0x9B
  | .vfmsub213sh _ => 0xAB
  | .vfmsub231sh _ => 0xBB
  | .vfnmsub132sh _ => 0x9F
  | .vfnmsub213sh _ => 0xAF
  | .vfnmsub231sh _ => 0xBF

/-! ## Reading the bytes -/

/-- What the prefix scan found: the admitted prefixes in order, whether a forbidden one was among them,
and the first other byte with its offset. -/
structure PrefixScan where
  legacy : List LegacyPrefix
  forbidden : Bool
  pos : Nat
  byte : Byte
  deriving DecidableEq, Repr

/-- Reads prefix bytes from offset `k` until the first byte that is none (R96). `fuel` bounds how many bytes
are read; none when it runs out. -/
def scanPrefixes {ε : Type} (m : Mode) (rd : Nat → Except ε Byte) :
    Nat → Nat → Except ε (Option PrefixScan)
  | 0, _ => .ok none
  | fuel + 1, k =>
    match rd k with
    | .error e => .error e
    | .ok b =>
      match LegacyPrefix.ofByte b with
      | some p =>
        match scanPrefixes m rd fuel (k + 1) with
        | .error e => .error e
        | .ok none => .ok none
        | .ok (some sc) => .ok (some { sc with legacy := p :: sc.legacy })
      | none =>
        if forbiddenPrefix m b then
          match scanPrefixes m rd fuel (k + 1) with
          | .error e => .error e
          | .ok none => .ok none
          | .ok (some sc) => .ok (some { sc with forbidden := true })
        else .ok (some { legacy := [], forbidden := false, pos := k, byte := b })

/-- How many prefix bytes can stand before an instruction: one for each address. -/
def prefixFuel : Nat := 18446744073709551616

/-- A little-endian `disp32` (R87). -/
def readDisp32 {ε : Type} (rd : Nat → Except ε Byte) (k : Nat) : Except ε (BitVec 32) := do
  let b0 ← rd k
  let b1 ← rd (k + 1)
  let b2 ← rd (k + 2)
  let b3 ← rd (k + 3)
  return b3 ++ b2 ++ b1 ++ b0

/-- The displacement that `mod` announces (R96). -/
def readDisp {ε : Type} (rd : Nat → Except ε Byte) (mod : BitVec 2) (k : Nat) : Except ε Disp :=
  if mod == 1 then do
    let d ← rd k
    return .disp8 d
  else if mod == 2 then do
    let d ← readDisp32 rd k
    return .disp32 d
  else return .none

/-- The memory form of operand 3 (R84, R85, R96): `k` is the offset after the ModRM byte, `x` and `b` are the
bits `X` and `B`. -/
def readMemOperand {ε : Type} (rd : Nat → Except ε Byte) (mod : BitVec 2) (rm : BitVec 3)
    (x b : BitVec 1) (k : Nat) : Except ε MemOperand :=
  if rm == 4 then do
    let sib ← rd k
    let ss := sib.extractLsb' 6 2
    let idx := sib.extractLsb' 3 3
    let bs := sib.extractLsb' 0 3
    if bs == 5 && mod == 0 then
      let d ← readDisp32 rd (k + 1)
      return .sibNoBase ss (x ++ idx) b d
    else
      let d ← readDisp rd mod (k + 1)
      return .sib ss (x ++ idx) (b ++ bs) d
  else if rm == 5 && mod == 0 then do
    let d ← readDisp32 rd k
    return .ripDisp x b d
  else do
    let d ← readDisp rd mod k
    return .base x (b ++ rm) d

/-- The five bytes after the `62H` (R70). -/
structure EvexHead where
  p0 : Byte
  p1 : Byte
  p2 : Byte
  opc : Byte
  modrm : Byte
  deriving DecidableEq, Repr

/-- `P0[3]` = 0 and `P1[2]` = 1, the fixed bits (R74, R75). -/
def EvexHead.fixedBitsOk (h : EvexHead) : Bool := !h.p0.getLsbD 3 && h.p1.getLsbD 2

/-- `EVEX.X`, the complement of `P0[6]`. -/
def EvexHead.x (h : EvexHead) : BitVec 1 := ~~~(h.p0.extractLsb' 6 1)

/-- `EVEX.B`, the complement of `P0[5]`. -/
def EvexHead.b (h : EvexHead) : BitVec 1 := ~~~(h.p0.extractLsb' 5 1)

/-- Operand 1: `(NOT R̄') ‖ (NOT R̄) ‖ reg` (R81). -/
def EvexHead.dest (h : EvexHead) : BitVec 5 :=
  ~~~(h.p0.extractLsb' 4 1) ++ ~~~(h.p0.extractLsb' 7 1) ++ h.modrm.extractLsb' 3 3

/-- Operand 2: `(NOT V̄') ‖ (NOT v̄vvv)` (R82). -/
def EvexHead.src2 (h : EvexHead) : BitVec 5 :=
  ~~~(h.p2.extractLsb' 3 1) ++ ~~~(h.p1.extractLsb' 3 4)

/-- Operand 3 of the register form: `(NOT X̄) ‖ (NOT B̄) ‖ rm` (R83). -/
def EvexHead.src3 (h : EvexHead) : BitVec 5 := h.x ++ h.b ++ h.modrm.extractLsb' 0 3

/-- `ModRM.mod` (R80). -/
def EvexHead.mod (h : EvexHead) : BitVec 2 := h.modrm.extractLsb' 6 2

/-- `EVEX.L'L`, `P2[6:5]` (R75). -/
def EvexHead.ll (h : EvexHead) : BitVec 2 := h.p2.extractLsb' 5 2

/-- `EVEX.b`, `P2[4]` (R76). -/
def EvexHead.bcast (h : EvexHead) : Bool := h.p2.getLsbD 4

/-- The writemask of `P2[7]` and `P2[2:0]` (R91). -/
def EvexHead.mask (h : EvexHead) : Option WriteMask :=
  WriteMask.ofBits (h.p2.getLsbD 7) (h.p2.extractLsb' 0 3)

/-- The verdict on a completely read instruction, from the prefixes, the head, the constructor that the
opcode selects and operand 3 (none where `b` = 1 with a memory operand): length first (R210 step 2), then
the #UD conditions of R94 that the bytes decide alone. -/
def verdict (sc : PrefixScan) (h : EvexHead) (mk : Operands → Instr) (tail : Nat)
    (src3 : Option Operand3) : Decoded :=
  if 15 < sc.pos + 6 + tail then .gp0
  else if sc.forbidden || !h.fixedBitsOk then .ud
  else
    match h.mask, src3 with
    | some mask, some op3 => .instr (mk { legacy := sc.legacy, dest := h.dest, src2 := h.src2, src3 := op3, mask })
    | _, _ => .ud

/-- Decoding after the opcode has selected one of the six: operand 3 and the verdict. -/
def decodeOperand3 {ε : Type} (rd : Nat → Except ε Byte) (sc : PrefixScan) (h : EvexHead)
    (mk : Operands → Instr) : Except ε Decoded :=
  if h.mod == 3 then
    let rc := if h.bcast then RoundCtl.embedded (RoundMode.ofBits h.ll) else RoundCtl.dynamic h.ll
    .ok (verdict sc h mk 0 (some (.reg h.src3 rc)))
  else do
    let mo ← readMemOperand rd h.mod (h.modrm.extractLsb' 0 3) h.x h.b (sc.pos + 6)
    return verdict sc h mk mo.length (if h.bcast then none else some (.mem h.ll mo))

/-- Decoding from the byte after the prefixes on: `62H`, the payload, the opcode and ModRM, each refused as
soon as it excludes the six instructions (R95). -/
def decodeEvex {ε : Type} (m : Mode) (rd : Nat → Except ε Byte) (sc : PrefixScan) :
    Except ε Decoded := do
  if sc.byte ≠ 0x62 then return .refused .notEvex
  if 1 < (sc.legacy.filter LegacyPrefix.isSegment).length then return .refused .manySegments
  if m = .mode32 ∧ .addrSize ∈ sc.legacy then return .refused .addressSize16
  let p0 ← rd (sc.pos + 1)
  if m = .mode32 ∧ p0.extractLsb' 4 4 ≠ 0xF#4 then return .refused .mode32Extension
  if p0.extractLsb' 0 3 ≠ 6#3 then return .refused .otherMap
  let p1 ← rd (sc.pos + 2)
  if p1.getLsbD 7 then return .refused .otherW
  if p1.extractLsb' 0 2 ≠ 1#2 then return .refused .otherPp
  if m = .mode32 ∧ p1.getLsbD 6 = false then return .refused .mode32Extension
  let p2 ← rd (sc.pos + 3)
  if m = .mode32 ∧ p2.getLsbD 3 = false then return .refused .mode32Extension
  let opc ← rd (sc.pos + 4)
  match opcodeTable.lookup opc with
  | none => return .refused .otherOpcode
  | some mk =>
    let modrm ← rd (sc.pos + 5)
    decodeOperand3 rd sc { p0, p1, p2, opc, modrm } mk

/-- The decoder (R96): `rd k` is the byte at offset `k` from `rip`, or the reason it cannot be read. It is
a function of the bytes and of the mode alone (R103). -/
def decodeFrom {ε : Type} (m : Mode) (rd : Nat → Except ε Byte) : Except ε Decoded :=
  match scanPrefixes m rd prefixFuel 0 with
  | .error e => .error e
  | .ok none => .ok (.refused .endlessPrefixes)
  | .ok (some sc) => decodeEvex m rd sc

/-- The reader of a list of bytes. -/
def readList (bytes : List Byte) (k : Nat) : Except Unit Byte :=
  match bytes[k]? with
  | some b => .ok b
  | none => .error ()

/-- Decoding of the instruction at the head of a list of bytes. -/
def decode (m : Mode) (bytes : List Byte) : Decoded :=
  match decodeFrom m (readList bytes) with
  | .ok d => d
  | .error () => .refused .truncated

/-- The bytes of an opcode-table word: 15 bytes, the first in the least significant bits, those above
`nbits` zero. -/
def tableBytes (nbits w : Nat) : List Byte :=
  (List.range 15).map fun k => BitVec.ofNat 8 ((w % 2 ^ nbits) >>> (8 * k))

/-- The instruction the decoder reads in `Mode64` from the bits `w` of an opcode-table row. -/
def decodeTableWord (nbits w : Nat) : Option Instr :=
  match decode .mode64 (tableBytes nbits w) with
  | .instr i => some i
  | _ => none

/-! ## Encoding -/

/-- `X` of operand 3 (R83 to R85). -/
def Operand3.xBit : Operand3 → BitVec 1
  | .reg s3 _ => s3.extractLsb' 4 1
  | .mem _ (.base x _ _) => x
  | .mem _ (.ripDisp x _ _) => x
  | .mem _ (.sib _ i _ _) => i.extractLsb' 3 1
  | .mem _ (.sibNoBase _ i _ _) => i.extractLsb' 3 1

/-- `B` of operand 3 (R83 to R85). -/
def Operand3.bBit : Operand3 → BitVec 1
  | .reg s3 _ => s3.extractLsb' 3 1
  | .mem _ (.base _ b _) => b.extractLsb' 3 1
  | .mem _ (.ripDisp _ bx _) => bx
  | .mem _ (.sib _ _ b _) => b.extractLsb' 3 1
  | .mem _ (.sibNoBase _ _ bx _) => bx

/-- The value of `mod` for a displacement (R84). -/
def Disp.modBits : Disp → BitVec 2
  | .none => 0
  | .disp8 _ => 1
  | .disp32 _ => 2

/-- `ModRM.mod` of operand 3 (R80, R84). -/
def Operand3.modBits : Operand3 → BitVec 2
  | .reg _ _ => 3
  | .mem _ (.base _ _ d) => d.modBits
  | .mem _ (.ripDisp _ _ _) => 0
  | .mem _ (.sib _ _ _ d) => d.modBits
  | .mem _ (.sibNoBase _ _ _ _) => 0

/-- `ModRM.rm` of operand 3 (R83, R84). -/
def Operand3.rmBits : Operand3 → BitVec 3
  | .reg s3 _ => s3.extractLsb' 0 3
  | .mem _ (.base _ b _) => b.extractLsb' 0 3
  | .mem _ (.ripDisp _ _ _) => 5
  | .mem _ (.sib _ _ _ _) => 4
  | .mem _ (.sibNoBase _ _ _ _) => 4

/-- `L'L`, or the embedded rounding mode (R76, R77). -/
def Operand3.llBits : Operand3 → BitVec 2
  | .reg _ (.dynamic ll) => ll
  | .reg _ (.embedded rm) => rm.toBits
  | .mem ll _ => ll

/-- `EVEX.b` (R76). -/
def Operand3.bcastBit : Operand3 → BitVec 1
  | .reg _ (.dynamic _) => 0
  | .reg _ (.embedded _) => 1
  | .mem _ _ => 0

/-- The bytes of a `disp32`, little-endian (R87). -/
def disp32Bytes (d : BitVec 32) : List Byte :=
  [d.extractLsb' 0 8, d.extractLsb' 8 8, d.extractLsb' 16 8, d.extractLsb' 24 8]

/-- The bytes of a displacement (R87). -/
def Disp.bytes : Disp → List Byte
  | .none => []
  | .disp8 d => [d]
  | .disp32 d => disp32Bytes d

/-- The SIB byte and the displacement (R84, R85). -/
def MemOperand.bytes : MemOperand → List Byte
  | .base _ _ d => d.bytes
  | .ripDisp _ _ d => disp32Bytes d
  | .sib ss i b d => (ss ++ i.extractLsb' 0 3 ++ b.extractLsb' 0 3 : BitVec 8) :: d.bytes
  | .sibNoBase ss i _ d => (ss ++ i.extractLsb' 0 3 ++ 5#3 : BitVec 8) :: disp32Bytes d

/-- The bytes after ModRM. -/
def Operand3.bytes : Operand3 → List Byte
  | .reg _ _ => []
  | .mem _ m => m.bytes

/-- `EVEX.z` (R91). -/
def WriteMask.zBit : WriteMask → BitVec 1
  | .unmasked => 0
  | .merging _ => 0
  | .zeroing _ => 1

/-- `EVEX.aaa` (R91). -/
def WriteMask.aaaBits : WriteMask → BitVec 3
  | .unmasked => 0
  | .merging r => r.toBits
  | .zeroing r => r.toBits

/-- `P0` (R73, R74). -/
def Operands.p0 (o : Operands) : Byte :=
  ~~~(o.dest.extractLsb' 3 1) ++ ~~~o.src3.xBit ++ ~~~o.src3.bBit ++ ~~~(o.dest.extractLsb' 4 1) ++ 0b0110#4

/-- `P1` (R73, R75). -/
def Operands.p1 (o : Operands) : Byte :=
  0#1 ++ ~~~(o.src2.extractLsb' 0 4) ++ 0b101#3

/-- `P2` (R73, R75). -/
def Operands.p2 (o : Operands) : Byte :=
  o.mask.zBit ++ o.src3.llBits ++ o.src3.bcastBit ++ ~~~(o.src2.extractLsb' 4 1) ++ o.mask.aaaBits

/-- ModRM (R80). -/
def Operands.modrm (o : Operands) : Byte :=
  o.src3.modBits ++ o.dest.extractLsb' 0 3 ++ o.src3.rmBits

/-- The bytes of an instruction in address order (R70). -/
def encode (i : Instr) : List Byte :=
  i.ops.legacy.map LegacyPrefix.toByte ++
    0x62#8 :: i.ops.p0 :: i.ops.p1 :: i.ops.p2 :: i.opcode :: i.ops.modrm :: i.ops.src3.bytes

end Sys2Proof
end

