-- ==== Sys2Proof/Machine/Memory.lean ====
section
/-! DEFINITION. Memory (spec/10_state.md R36, 20_memory.md R50, R52): the whole 64-bit linear address space,
as a list of (address, byte) pairs in one canonical form. -/

namespace Sys2Proof.Machine

/-- Memory: the cells that do not read as `unlistedByte`, addresses strictly rising. -/
abbrev Memory := List Host.Cell

/-- What an unlisted address reads as. DESIGN CHOICE (log 7): the spec gives memory no reset contents (R39). -/
def unlistedByte : Byte := 0

/-- The canonical form: addresses strictly rising and inside the address space, no cell that reads as an
unlisted one. -/
abbrev Memory.wf (m : Memory) : Prop :=
  (m.map Prod.fst).Pairwise (· < ·) ∧ ∀ c ∈ m, c.2 ≠ unlistedByte ∧ c.1 < 2 ^ 64

/-- The byte at an address. -/
def Memory.read : Memory → Nat → Byte
  | [], _ => unlistedByte
  | (b, w) :: rest, a => if a = b then w else Memory.read rest a

/-- The cells that hold `v` at `a` before `rest`: none where `v` is what an unlisted address reads as. -/
def Memory.cons (a : Nat) (v : Byte) (rest : Memory) : Memory :=
  if v = unlistedByte then rest else (a, v) :: rest

/-- Storing one byte. No instruction in scope writes memory (R53); a launch does (R243). -/
def Memory.write : Memory → Nat → Byte → Memory
  | [], a, v => Memory.cons a v []
  | (b, w) :: rest, a, v =>
    if a < b then Memory.cons a v ((b, w) :: rest)
    else if a = b then Memory.cons a v rest
    else (b, w) :: Memory.write rest a v

/-- Storing bytes at `a`, `a+1`, ..., addresses modulo 2^64 (R50). -/
def Memory.writeBytes : Memory → Addr → List Byte → Memory
  | m, _, [] => m
  | m, a, v :: vs => Memory.writeBytes (Memory.write m a.toNat v) (a + 1) vs

end Sys2Proof.Machine
end

