-- ==== Sys2Proof/Machine/State.lean ====
section
/-! DEFINITION. The state of the machine (spec/10_state.md R20, R35, R39), the exceptions
(spec/60_exceptions.md R200) and the reasons a step can stop. -/

namespace Sys2Proof.Machine

/-- The registers and facts that decide whether the instructions are enabled (R35), and the FS and GS bases
(R57). Held as registers, where R35 folds them into Booleans (log 2); no step writes them. -/
structure System where
  /-- CPUID.(EAX=07H, ECX=0):EDX[23], the feature flag `AVX512-FP16` (R203). -/
  cpuidFp16 : Bool
  /-- CR0: PE is bit 0, TS bit 3, AM bit 18. -/
  cr0 : BitVec 64
  /-- CR4: OSXMMEXCPT is bit 10, OSXSAVE bit 18. -/
  cr4 : BitVec 64
  /-- XCR0: SSE is bit 1, AVX bit 2, opmask bit 5, ZMM_Hi256 bit 6, Hi16_ZMM bit 7. -/
  xcr0 : BitVec 64
  /-- RFLAGS: TF is bit 8 (R230), VM bit 17, AC bit 18 (R28). -/
  rflags : BitVec 64
  /-- The current privilege level (R226). -/
  cpl : BitVec 2
  /-- IA32_FS_BASE (R57). -/
  fsBase : Addr
  /-- IA32_GS_BASE (R57). -/
  gsBase : Addr
  deriving DecidableEq, Repr

/-- The state (R20), with the configuration beside it (log 1). -/
structure State where
  /-- `zmm0` to `zmm31` (R21), of which `cfg.nVReg` are addressable and `cfg.maxVL` bits exist (log 25). -/
  zmm : Vector VecReg 32
  /-- `k0` to `k7` (R23), of which `cfg.kWidth` bits exist (log 25). -/
  k : Vector MaskReg 8
  /-- `RAX` to `R15` (R25). -/
  gpr : Vector (BitVec 64) 16
  /-- The instruction pointer (R26). -/
  rip : Addr
  /-- `MXCSR` (R30). -/
  mxcsr : BitVec 32
  /-- Linear memory (R36). -/
  mem : Memory
  /-- The control registers of R35. -/
  sys : System
  /-- The parameters of R7. -/
  cfg : Config
  /-- How many free choices have been consumed (log 6): the model's own field. -/
  draws : Nat
  deriving DecidableEq, Repr

/-- An exception of R200 with the information it records. -/
inductive Exception where
  /-- #UD, invalid opcode (R202, R203, R208). -/
  | ud
  /-- #NM, device not available (R204). -/
  | nm
  /-- #SS(0), stack-segment fault (R205). -/
  | ss
  /-- #GP(0), general protection (R205). -/
  | gp
  /-- #PF with the error code `Translate` answered and the faulting linear address (R206). -/
  | pf (code : BitVec 32) (la : Addr)
  /-- #AC(0), alignment check (R207). -/
  | ac
  /-- #XM, SIMD floating-point exception (R208). -/
  | xm
  deriving DecidableEq, Repr

/-- The terminal outcome of a raised exception (R220): which one, what it records, and the state at that
point, which is the state before the instruction but for `mxcsr[5:0]` where an unmasked floating-point
exception was signalled (R208, R211). All are SAFE: the spec ends the run there. -/
inductive Fault where
  /-- #UD: raised by every instruction for a reserved encoding, where the instructions are not enabled, and
  for an unmasked floating-point exception with CR4.OSXMMEXCPT = 0. Safe. -/
  | ud (final : State)
  /-- #NM: raised by every instruction while CR0.TS = 1. Safe. -/
  | nm (final : State)
  /-- #SS(0): raised by a memory operand through SS at a non-canonical address. Safe. -/
  | ss (final : State)
  /-- #GP(0): raised by a memory operand or a fetch at a non-canonical address and by an instruction longer
  than 15 bytes. Safe. -/
  | gp (final : State)
  /-- #PF: raised by a fetch or a memory operand that `Translate` refuses. Safe. -/
  | pf (code : BitVec 32) (la : Addr) (final : State)
  /-- #AC(0): raised by a memory operand at an odd address under alignment checking. Safe. -/
  | ac (final : State)
  /-- #XM: raised by an unmasked floating-point exception with CR4.OSXMMEXCPT = 1. Safe. -/
  | xm (final : State)
  deriving DecidableEq, Repr

/-- Why a step has no meaning (R18, R95). -/
inductive Refusal where
  /-- An instruction without a meaning in this model; no arm of this model answers it. Safe. -/
  | notModelled (mnemonic : String)
  /-- Raised by the decoder: the bytes at `rip` are given no meaning by the spec (R95). Safe. -/
  | undefinedEncoding (why : RejectReason)
  /-- Raised by the step: the state is none of the machine (R34, R26, R230; D8: non-flat segments in `Mode32`), a
  launch the spec refuses (93_implementation_defined.md I11, I17; log 14). Safe. -/
  | inadmissibleState
  /-- Raised by the step: the instruction names a vector register whose number is not below `NVREG` (R13, R21), to
  which the spec gives no meaning; never at the values of R7 (log 25). Safe. -/
  | noSuchRegister
  deriving DecidableEq, Repr

/-- The control registers after power-up or RESET (R39), in which the instructions are not enabled (R240).
`cpuidFp16`, `fsBase` and `gsBase` are DESIGN CHOICES (log 2, 10). -/
def System.reset : System where
  cpuidFp16 := true
  cr0 := 0x60000010
  cr4 := 0
  xcr0 := 1
  rflags := 2
  cpl := 0
  fsBase := 0
  gsBase := 0

/-- The parameters of R7 at their spec values; `mode` and `codeEnd` are DESIGN CHOICES (log 9, 10). -/
def Config.reset : Config where
  maxVL := .w512
  mode := .mode64
  nVReg64 := 32
  nVReg32 := 8
  kWidth := .w64
  vaBits := .va48
  pageFaults := []
  codeEnd := 0
  maskedOffMem := .either
  acPfOrder := .either
  ll3 := .ud
  fp := FpParams.thisHardware

/-- The machine after power-up or RESET (R39, R240). The value of RDX is a DESIGN CHOICE (log 8), memory reads
as log 7 says. -/
def State.reset : State where
  zmm := Vector.replicate 32 0
  k := Vector.replicate 8 0
  gpr := Vector.replicate 16 0
  rip := 0xFFF0
  mxcsr := 0x1F80
  mem := []
  sys := System.reset
  cfg := Config.reset
  draws := 0

end Sys2Proof.Machine
end

