-- ==== Sys2Proof/Machine/Flags.lean ====
section
/-! DEFINITION. The flags, masks and control fields of `MXCSR` (spec/10_state.md R30 to R33), and the sets of
flags the arithmetic signals (spec/41_fp16_fma_numerics.md R155). -/

namespace Sys2Proof.Machine

/-- A set of the flags an instruction can signal; `ZE` is never one of them (R116, R209). -/
structure FpFlags where
  ie : Bool := false
  de : Bool := false
  oe : Bool := false
  ue : Bool := false
  pe : Bool := false
  deriving DecidableEq, Repr

/-- The empty set of flags. -/
def FpFlags.empty : FpFlags := {}

/-- The set as `MXCSR[5:0]`: IE 0, DE 1, ZE 2, OE 3, UE 4, PE 5 (R30). -/
def FpFlags.toBits (f : FpFlags) : BitVec 6 :=
  BitVec.ofBool f.pe ++ BitVec.ofBool f.ue ++ BitVec.ofBool f.oe ++ 0#1 ++
    BitVec.ofBool f.de ++ BitVec.ofBool f.ie

/-- The mask bits the instructions read; `true` is masked (R30). `ZM` is never read. -/
structure FpMasks where
  im : Bool
  dm : Bool
  om : Bool
  um : Bool
  pm : Bool
  deriving DecidableEq, Repr

/-- Every exception masked. -/
def FpMasks.all : FpMasks := { im := true, dm := true, om := true, um := true, pm := true }

/-- The masks in `MXCSR`: IM 7, DM 8, OM 10, UM 11, PM 12 (R30). -/
def mxcsrMasks (m : BitVec 32) : FpMasks where
  im := m.getLsbD 7
  dm := m.getLsbD 8
  om := m.getLsbD 10
  um := m.getLsbD 11
  pm := m.getLsbD 12

/-- `MXCSR.RC`, bits 14:13 (R30). -/
def mxcsrRC (m : BitVec 32) : RoundMode := RoundMode.ofBits (m.extractLsb' 13 2)

/-- `MXCSR.DAZ`, bit 6 (R30). -/
def mxcsrDaz (m : BitVec 32) : Bool := m.getLsbD 6

/-- `MXCSR.FTZ`, bit 15 (R30). -/
def mxcsrFtz (m : BitVec 32) : Bool := m.getLsbD 15

/-- `mxcsr[5:0] <- mxcsr[5:0] OR f`, the only write to `MXCSR` (R32). -/
def orFlags (m : BitVec 32) (f : FpFlags) : BitVec 32 := m ||| f.toBits.setWidth 32

end Sys2Proof.Machine
end

