-- ==== Sys2Proof/Machine/Fp16.lean ====
section
/-! DEFINITION. The FP16 format and `FMS16`, the arithmetic the six instructions share
(spec/41_fp16_fma_numerics.md R150 to R167, R171). -/

namespace Sys2Proof.Machine

/-! ## The datum (R150, R151) -/

/-- The biased exponent, `h[14:10]`. -/
def expOf (h : Half) : Nat := (h.extractLsb' 10 5).toNat

/-- The fraction, `h[9:0]`. -/
def fracOf (h : Half) : Nat := (h.extractLsb' 0 10).toNat

/-- `sign(h) = h[15]`. -/
def signOf (h : Half) : Bool := h.getLsbD 15

/-- `h[14:0] = 0`. -/
def isZero (h : Half) : Bool := h.extractLsb' 0 15 == 0

/-- `e = 0` and `f ≠ 0`. -/
def isDen (h : Half) : Bool := expOf h == 0 && fracOf h != 0

/-- `e = 31` and `f = 0`. -/
def isInf (h : Half) : Bool := expOf h == 31 && fracOf h == 0

/-- `e = 31` and `f ≠ 0`. -/
def isNaN (h : Half) : Bool := expOf h == 31 && fracOf h != 0

/-- A NaN with `h[9] = 0`. -/
def isSNaN (h : Half) : Bool := isNaN h && !h.getLsbD 9

/-- A NaN with `h[9] = 1`. -/
def isQNaN (h : Half) : Bool := isNaN h && h.getLsbD 9

/-- `e ≠ 31`. -/
def isFinite (h : Half) : Bool := expOf h != 31

/-- `quiet(h) = h OR 0200H`. -/
def quiet (h : Half) : Half := h ||| 0x0200

/-- The QNaN floating-point indefinite (R150). -/
def indefinite : Half := 0xFE00

/-- A sign bit before a 15-bit magnitude. -/
def withSign (s : Bool) (mag : BitVec 15) : Half := BitVec.ofBool s ++ mag

/-- The infinity of a sign. -/
def infinity (s : Bool) : Half := withSign s 0x7C00

/-- The zero of a sign. -/
def zeroOf (s : Bool) : Half := withSign s 0

/-- The largest finite datum of a sign, magnitude 65504. -/
def largest (s : Bool) : Half := withSign s 0x7BFF

/-- The magnitude of a finite datum in units of 2^−24 (R150, R152). -/
def magnitude (h : Half) : Nat :=
  if expOf h = 0 then fracOf h else (1024 + fracOf h) * 2 ^ (expOf h - 1)

/-- A finite datum in units of 2^−24 (R152). -/
def intVal (h : Half) : Int := if signOf h then -(magnitude h : Int) else (magnitude h : Int)

/-- `val(h)` of R152, for a finite datum. Statements use it; the arithmetic is done on integers. -/
def val (h : Half) : ℚ := (intVal h : ℚ) / 2 ^ 24

/-! ## Outcomes and rounding -/

/-- What `FMS16` returns (R155). -/
inductive FmsOutcome where
  /-- The instruction completes: `r` is written, the flags are OR-ed into `MXCSR`. -/
  | result (r : Half) (flags : FpFlags)
  /-- The instruction raises #XM (or #UD); the flags are OR-ed into `MXCSR`. -/
  | trap (flags : FpFlags)
  deriving DecidableEq, Repr

/-- Whether the rounded integer is one above the floor, for an inexact `t` whose floor is odd or even and
whose remainder is compared with one half (R167). -/
def roundsUp (rm : RoundMode) (s : Bool) (floorOdd : Bool) (half : Ordering) : Bool :=
  match rm with
  | .rn => half == .gt || (half == .eq && floorOdd)
  | .rz => false
  | .ru => !s
  | .rd => s

/-- `round_int(num/den, s, rm)` (R167): the integer and whether it is inexact. -/
def roundInt (num den : Nat) (s : Bool) (rm : RoundMode) : Nat × Bool :=
  let fl := num / den
  let r := num % den
  if r = 0 then (fl, false)
  else (if roundsUp rm s (fl % 2 == 1) (compare (2 * r) den) then fl + 1 else fl, true)

/-- The parameters of one computation: the rounding mode, the masks of `MXCSR[12:7]`, `sae`, and what R171
needs when `FP16_HONOURS_DAZ_FTZ` is true. -/
structure FmsEnv where
  rm : RoundMode
  masks : FpMasks
  sae : Bool
  daz : Bool
  ftz : Bool
  params : FpParams
  deriving DecidableEq, Repr

/-- The delivered result of a masked overflow (R163). -/
def overflowResult (rm : RoundMode) (s : Bool) : Half :=
  match rm with
  | .rn => infinity s
  | .rz => largest s
  | .ru => if s then largest true else infinity false
  | .rd => if s then infinity true else largest false

/-- Overflow (R163): `f` holds the flags signalled so far. -/
def overflow (rm : RoundMode) (m : FpMasks) (s inexact : Bool) (f : FpFlags) : FmsOutcome :=
  if !m.om then .trap { f with oe := true, pe := inexact }
  else if !m.pm then .trap { f with oe := true, pe := true }
  else .result (overflowResult rm s) { f with oe := true, pe := true }

/-- A tiny result (R164): `mag` is |v| in units of 2^−48. With `flush` (R171: `MXCSR.FTZ` honoured) the masked
result is a zero with `UE` and `PE`. -/
def tiny (rm : RoundMode) (m : FpMasks) (flush s : Bool) (mag : Nat) (f : FpFlags) : FmsOutcome :=
  let (nd, inexact) := roundInt mag (2 ^ 24) s rm
  if !m.um then .trap { f with ue := true, pe := inexact }
  else if flush then
    if !m.pm then .trap { f with ue := true, pe := true }
    else .result (zeroOf s) { f with ue := true, pe := true }
  else if inexact then
    if !m.pm then .trap { f with ue := true, pe := true }
    else .result (withSign s (BitVec.ofNat 15 nd)) { f with ue := true, pe := true }
  else .result (withSign s (BitVec.ofNat 15 nd)) f

/-- `pack(s, n × 2^q)` (R165) for the biased exponent `e = q + 25` and 1024 ≤ `n` ≤ 2048. -/
def pack (s : Bool) (e n : Nat) : Half :=
  if n = 2048 then withSign s (BitVec.ofNat 5 (e + 1) ++ 0#10)
  else withSign s (BitVec.ofNat 5 e ++ BitVec.ofNat 10 (n - 1024))

/-- A normal result (R165). -/
def normal (m : FpMasks) (s inexact : Bool) (e n : Nat) (f : FpFlags) : FmsOutcome :=
  if inexact then
    if !m.pm then .trap { f with pe := true } else .result (pack s e n) { f with pe := true }
  else .result (pack s e n) f

/-- Rounding with unbounded exponent (R162) of `mag` × 2^−48, `mag` ≠ 0, then exactly one of R163 to R165. With
`l` the binary logarithm of `mag`, `E = l − 48`, `q = l − 58` and `ru = n × 2^(l−58)`. -/
def roundFP (rm : RoundMode) (m : FpMasks) (flush s : Bool) (mag : Nat) (f : FpFlags) : FmsOutcome :=
  let l := Nat.log2 mag
  let (n, inexact) := roundInt (mag * 2 ^ 10) (2 ^ l) s rm
  if 2 ^ 74 ≤ n * 2 ^ l then overflow rm m s inexact f
  else if n * 2 ^ l < 2 ^ 44 then tiny rm m flush s mag f
  else normal m s inexact (l - 33) n f

/-! ## The steps of FMS16 (R155) -/

/-- The first NaN in `NAN_ORDER` (R157). -/
def firstNaN (o : NanOrder) (x y z : Half) : Half :=
  let pick (a b c : Half) := if isNaN a then a else if isNaN b then b else c
  match o with
  | .xyz => pick x y z
  | .xzy => pick x z y
  | .yxz => pick y x z
  | .yzx => pick y z x
  | .zxy => pick z x y
  | .zyx => pick z y x

/-- One of `x`, `y` is a zero and the other an infinity (R158 (a)). -/
def zeroTimesInf (x y : Half) : Bool := (isZero x && isInf y) || (isInf x && isZero y)

/-- Step 1, a NaN operand (R157). `INFZERO_QNAN_IE` adds `IE` to 0 × ∞ with a QNaN subtrahend (R158). -/
def nanResult (p : FpParams) (m : FpMasks) (x y z : Half) : FmsOutcome :=
  let ie := isSNaN x || isSNaN y || isSNaN z || (p.infZeroQnanIE && zeroTimesInf x y && isQNaN z)
  if ie && !m.im then .trap { ie := true }
  else .result (quiet (firstNaN p.nanOrder x y z)) { ie := ie }

/-- The sign of the product term `P = (−1)^neg × x × y` (R155). -/
def productSign (neg : Bool) (x y : Half) : Bool := signOf x ^^ signOf y ^^ neg

/-- The sign of the subtrahend term `A = −z` (R155). -/
def addendSign (z : Half) : Bool := !signOf z

/-- The invalid operations of R158. -/
def invalidOp (neg : Bool) (x y z : Half) : Bool :=
  zeroTimesInf x y ||
    ((isInf x || isInf y) && isInf z && productSign neg x y != addendSign z)

/-- The exact value of R155 in units of 2^−48 (R152). -/
def exactValue (neg : Bool) (x y z : Half) : Int :=
  (if neg then -(intVal x * intVal y) else intVal x * intVal y) - intVal z * 2 ^ 24

/-- The sign of an exact zero result (R161). -/
def exactZeroSign (rm : RoundMode) (neg : Bool) (x y z : Half) : Bool :=
  if (isZero x || isZero y) && isZero z && productSign neg x y == addendSign z then productSign neg x y
  else rm == .rd

/-- Steps 3 to 6 (R159 to R167): no operand is a NaN and the operation is valid. -/
def finiteSteps (rm : RoundMode) (m : FpMasks) (flush neg : Bool) (x y z : Half) : FmsOutcome :=
  let f : FpFlags := { de := isDen x || isDen y || isDen z }
  if f.de && !m.dm then .trap f
  else if isInf x || isInf y then .result (infinity (productSign neg x y)) f
  else if isInf z then .result (infinity (addendSign z)) f
  else
    let v := exactValue neg x y z
    if v = 0 then .result (zeroOf (exactZeroSign rm neg x y z)) f
    else roundFP rm m flush (v < 0) v.natAbs f

/-- Step 0 where `FP16_HONOURS_DAZ_FTZ` and `MXCSR.DAZ` are set: a denormal becomes the zero of its sign
(R156, R171). -/
def dazOperand (daz : Bool) (h : Half) : Half := if daz && isDen h then zeroOf (signOf h) else h

/-- The steps of R155 in order, with the masks to use. -/
def fmsSteps (e : FmsEnv) (m : FpMasks) (neg : Bool) (x y z : Half) : FmsOutcome :=
  let daz := e.params.honoursDazFtz && e.daz
  let x := dazOperand daz x
  let y := dazOperand daz y
  let z := dazOperand daz z
  if isNaN x || isNaN y || isNaN z then nanResult e.params m x y z
  else if invalidOp neg x y z then
    if !m.im then .trap { ie := true } else .result indefinite { ie := true }
  else finiteSteps e.rm m (e.params.honoursDazFtz && e.ftz) neg x y z

/-- Drops the flags of an outcome (R154). -/
def FmsOutcome.withoutFlags : FmsOutcome → FmsOutcome
  | .result r _ => .result r FpFlags.empty
  | .trap _ => .trap FpFlags.empty

/-- `FMS16` (R155): under `sae` every exception is masked and no flag is returned (R154). -/
def fms16 (e : FmsEnv) (neg : Bool) (x y z : Half) : FmsOutcome :=
  if e.sae then (fmsSteps e FpMasks.all neg x y z).withoutFlags
  else fmsSteps e e.masks neg x y z

end Sys2Proof.Machine
end

