-- ==== Sys2Proof/Machine/Ops.lean ====
section
/-! DEFINITION. The named operations over the state: register accessors, the parameters that registers decide
(spec/10_state.md R35, 60_exceptions.md R203), translation, memory reads (spec/20_memory.md), raising an
exception (spec/60_exceptions.md R200, R211, R220) and the commit of a completing instruction
(spec/40_fmsub_sh.md R115, R116, R119). There is no return from an exception: R222 puts it out of scope. -/

namespace Sys2Proof.Machine

/-! ## Registers -/

/-- The `MAXVL` bits of a vector register that exist, in its storage. -/
def clipZmm (w : VectorWidth) (v : VecReg) : VecReg := (v.setWidth w.toNat).setWidth _

/-- The `KWIDTH` bits of an opmask register that exist, in its storage. -/
def clipK (w : MaskWidth) (v : MaskReg) : MaskReg := (v.setWidth w.toNat).setWidth _

/-- The `MAXVL` bits of vector register `i` (R13). -/
def State.readZmm (s : State) (i : BitVec 5) : VecReg := clipZmm s.cfg.maxVL (s.zmm[i.toNat]'(i.isLt))

/-- `zmm[i][15:0]`, the FP16 element 0 (R9, R22). -/
def State.readHalf (s : State) (i : BitVec 5) : Half := (s.readZmm i).extractLsb' 0 16

/-- The `KWIDTH` bits of opmask register `i` (R13, R23). -/
def State.readK (s : State) (i : BitVec 3) : MaskReg := clipK s.cfg.kWidth (s.k[i.toNat]'(i.isLt))

/-- General register `i` (R25). -/
def State.readGpr (s : State) (i : BitVec 4) : BitVec 64 := s.gpr[i.toNat]'(i.isLt)

/-- `zmm[i] <- v`, a write of all `MAXVL` bits (R13). -/
def State.writeZmm (s : State) (i : BitVec 5) (v : VecReg) : State :=
  { s with zmm := s.zmm.set i.toNat (clipZmm s.cfg.maxVL v) i.isLt }

/-- `mxcsr.flags <- mxcsr.flags OR f` (R13, R32). -/
def State.signal (s : State) (f : FpFlags) : State := { s with mxcsr := orFlags s.mxcsr f }

/-- `rip <- v` (R13). -/
def State.setRip (s : State) (v : Addr) : State := { s with rip := v }

/-- Records that `n` free choices have been consumed in all (log 6). -/
def State.setDraws (s : State) (n : Nat) : State := { s with draws := n }

/-! ## Parameters that registers decide -/

/-- `FP16_USABLE`, the conjunction of R203. -/
def State.fp16Usable (s : State) : Bool :=
  s.sys.cpuidFp16 && s.sys.cr4.getLsbD 18 &&
    s.sys.xcr0.getLsbD 1 && s.sys.xcr0.getLsbD 2 &&
    s.sys.xcr0.getLsbD 5 && s.sys.xcr0.getLsbD 6 && s.sys.xcr0.getLsbD 7 &&
    s.sys.cr0.getLsbD 0 && !s.sys.rflags.getLsbD 17

/-- `CR0_TS` (R204). -/
def State.cr0TS (s : State) : Bool := s.sys.cr0.getLsbD 3

/-- `CR4_OSXMMEXCPT` (R208). -/
def State.osxmmexcpt (s : State) : Bool := s.sys.cr4.getLsbD 10

/-- `AC_ACTIVE`: CR0.AM = 1, EFLAGS.AC = 1 and CPL = 3 (R207). -/
def State.acActive (s : State) : Bool :=
  s.sys.cr0.getLsbD 18 && s.sys.rflags.getLsbD 18 && s.sys.cpl == 3

/-- The states of the machine: the reserved bits of `MXCSR` are zero (R34), RFLAGS.TF is 0 (R230), and in
`Mode32` the upper half of `rip` is zero (R26) and the segments are flat (R57, D8). -/
def State.admissible (s : State) : Bool :=
  s.mxcsr.extractLsb' 16 16 == 0 && !s.sys.rflags.getLsbD 8 &&
    (s.cfg.mode == .mode64 ||
      (s.rip.extractLsb' 32 32 == 0 && s.sys.fsBase == 0 && s.sys.gsBase == 0))

/-! ## Exceptions -/

/-- The vector number of an exception (R200). -/
def Exception.vector : Exception → Nat
  | .ud => 6
  | .nm => 7
  | .ss => 12
  | .gp => 13
  | .pf _ _ => 14
  | .ac => 17
  | .xm => 19

/-- The error code of an exception, if it has one (R200). -/
def Exception.errorCode : Exception → Option (BitVec 32)
  | .ud => none
  | .nm => none
  | .ss => some 0
  | .gp => some 0
  | .pf code _ => some code
  | .ac => some 0
  | .xm => none

/-- The fault outcome of an exception raised in the state `s` (R220). -/
def Exception.toFault (e : Exception) (s : State) : Fault :=
  match e with
  | .ud => .ud s
  | .nm => .nm s
  | .ss => .ss s
  | .gp => .gp s
  | .pf code la => .pf code la s
  | .ac => .ac s
  | .xm => .xm s

/-- The exception of a fault (R220). -/
def Fault.exception : Fault → Exception
  | .ud _ => .ud
  | .nm _ => .nm
  | .ss _ => .ss
  | .gp _ => .gp
  | .pf code la _ => .pf code la
  | .ac _ => .ac
  | .xm _ => .xm

/-- The state at the point of a fault (R220). -/
def Fault.final : Fault → State
  | .ud s => s
  | .nm s => s
  | .ss s => s
  | .gp s => s
  | .pf _ _ s => s
  | .ac s => s
  | .xm s => s

/-- Taking an exception (R13 `raise`, R211, R220): the run ends in the fault, the state at that point is `s`, and
no register, no memory byte and not `rip` has been changed by the instruction. -/
def raise (e : Exception) (s : State) : Host.Outcome State Fault Refusal := .fault (e.toFault s)

/-! ## Memory -/

/-- `mem[a]` (R13). -/
def State.readByte (s : State) (a : Addr) : Byte := Memory.read s.mem a.toNat

/-- A canonical address: bits 63:`VA_BITS-1` all equal (R59). -/
def canonical (v : VaBits) (a : Addr) : Bool :=
  a.sshiftRight (v.toNat - 1) == 0 || a.sshiftRight (v.toNat - 1) == BitVec.allOnes 64

/-- The canonical-address check is made in `Mode64` only (R59, R205 (d)). -/
def State.canonicalAt (s : State) (a : Addr) : Bool :=
  match s.cfg.mode with
  | .mode64 => canonical s.cfg.vaBits a
  | .mode32 => true

/-- `Translate(la, kind)` (R58): the page fault it answers, if it does not answer `Ok`. -/
def State.translate (s : State) (la : Addr) (kind : AccessKind) : Option Exception :=
  match s.cfg.pageFaults.find? fun r => r.kind == kind && r.first ≤ la && la ≤ r.last with
  | some r => some (.pf r.code la)
  | none => none

/-- The segment registers (R72, R90). -/
inductive Segment where
  | es | cs | ss | ds | fs | gs
  deriving DecidableEq, Repr

/-- `SegBase(seg)` (R57): in `Mode32` every segment is flat (D8). -/
def State.segBase (s : State) (seg : Segment) : Addr :=
  match s.cfg.mode, seg with
  | .mode64, .fs => s.sys.fsBase
  | .mode64, .gs => s.sys.gsBase
  | _, _ => 0

/-- #AC(0) for an odd address under alignment checking (R207). -/
def State.alignFault (s : State) (la : Addr) : Option Exception :=
  if s.acActive && la.getLsbD 0 then some .ac else none

/-- The page fault of the 2-byte read, the lower byte first (R58, R206). -/
def State.pageFault16 (s : State) (la : Addr) : Option Exception :=
  match s.translate la .read with
  | some e => some e
  | none => s.translate (la + 1) .read

/-- Whether #AC is reported before #PF (R210 step 6); a free choice where `AC_PF_ORDER` is `either`. -/
def State.acBeforePf (s : State) : Bool :=
  match s.cfg.acPfOrder with
  | .acFirst => true
  | .pfFirst => false
  | .either => Config.alignmentFirst s.draws

/-- The exception the checks of a 2-byte read at `la` through `seg` raise, in the order of R210 steps 5 and 6. -/
def State.checkM16 (s : State) (seg : Segment) (la : Addr) : Option Exception :=
  if !(s.canonicalAt la && s.canonicalAt (la + 1)) then some (if seg = .ss then .ss else .gp)
  else
    match s.alignFault la, s.pageFault16 la with
    | none, none => none
    | some a, none => some a
    | none, some p => some p
    | some a, some p => some (if s.acBeforePf then a else p)

/-- `MemRead(la, 2)`, little-endian (R50). -/
def State.readM16 (s : State) (la : Addr) : Half := s.readByte (la + 1) ++ s.readByte la

/-! ## Completion -/

/-- The new value of the destination, `zext_MAXVL(old[127:16] ‖ low)` (R22, R115): bits 127:16 kept, bits
MAXVL−1:128 zero. -/
def destValue (w : VectorWidth) (old : VecReg) (low : Half) : VecReg :=
  ((old.extractLsb' 16 112 ++ low).setWidth w.toNat).setWidth _

/-- `rip + len`, modulo 2^64 in `Mode64` and 2^32 in `Mode32` (R27). -/
def State.nextRip (s : State) (len : Nat) : Addr :=
  match s.cfg.mode with
  | .mode64 => s.rip + BitVec.ofNat 64 len
  | .mode32 => ((s.rip + BitVec.ofNat 64 len).setWidth 32).setWidth 64

/-- Step 8 of R110: the destination, the flags and `rip`. -/
def State.commit (s : State) (d : BitVec 5) (low : Half) (f : FpFlags) (len : Nat) : State :=
  ((s.writeZmm d (destValue s.cfg.maxVL (s.readZmm d) low)).signal f).setRip (s.nextRip len)

end Sys2Proof.Machine
end

