-- ==== Sys2Proof/Machine/Operands.lean ====
section
/-! DEFINITION. Operand forms: the writemask bit (spec/40_fmsub_sh.md R113), the rounding mode (R114), the
effective address, segment and linear address of the memory form (spec/30_encoding.md R84 to R90,
spec/20_memory.md R57, R60), and the three source values (R111, R112). -/

namespace Sys2Proof.Machine

/-- Where the three digits of the mnemonic put the operands (R112). -/
inductive OperandOrder where
  | o132
  | o213
  | o231
  deriving DecidableEq, Repr

/-- `(x, y, z)` of R112 from the source values `D`, `A`, `B` of operands 1, 2, 3. -/
def OperandOrder.arrange (o : OperandOrder) (D A B : Half) : Half × Half × Half :=
  match o with
  | .o132 => (D, B, A)
  | .o213 => (A, D, B)
  | .o231 => (A, B, D)

/-- The mask bit `m` of R110 step 4: 1 without a writemask, else bit 0 of the opmask register (R113). -/
def State.maskBit (s : State) : WriteMask → Bool
  | .unmasked => true
  | .merging r => (s.readK r.toBits).getLsbD 0
  | .zeroing r => (s.readK r.toBits).getLsbD 0

/-- The low element when the mask bit is 0: zero under zeroing, else unchanged (R113). -/
def maskedLow (m : WriteMask) (old : Half) : Half :=
  match m with
  | .zeroing _ => 0
  | .unmasked => old
  | .merging _ => old

/-- The rounding mode and `sae` (R114), with the rest of what `FMS16` reads from `MXCSR` and the
configuration. -/
def State.fmsEnv (s : State) (op3 : Operand3) : FmsEnv where
  rm := match op3 with
    | .reg _ (.embedded rm) => rm
    | .reg _ (.dynamic _) => mxcsrRC s.mxcsr
    | .mem _ _ => mxcsrRC s.mxcsr
  masks := mxcsrMasks s.mxcsr
  sae := match op3 with
    | .reg _ (.embedded _) => true
    | .reg _ (.dynamic _) => false
    | .mem _ _ => false
  daz := mxcsrDaz s.mxcsr
  ftz := mxcsrFtz s.mxcsr
  params := s.cfg.fp

/-- The #UD condition that the parameter `LL3_WITHOUT_B` decides: `L'L` = 11b with `b` = 0 (R77, R202 U7). -/
def State.lengthUd (s : State) (op3 : Operand3) : Bool :=
  s.cfg.ll3 == .ud &&
    match op3 with
    | .reg _ (.dynamic ll) => ll == 3
    | .reg _ (.embedded _) => false
    | .mem ll _ => ll == 3

/-- Whether every vector register that the operands name exists: its number is below `NVREG` (R13, R21). -/
def State.registersExist (s : State) (ops : Operands) : Bool :=
  ops.dest.toNat < s.cfg.nVReg && ops.src2.toNat < s.cfg.nVReg &&
    match ops.src3 with
    | .reg s3 _ => s3.toNat < s.cfg.nVReg
    | .mem _ _ => true

/-! ## The memory form -/

/-- Whether the effective address has 32 bits: `Mode32`, or a `67H` prefix in `Mode64` (R89). -/
def State.address32 (s : State) (ops : Operands) : Bool :=
  s.cfg.mode == .mode32 || ops.legacy.contains .addrSize

/-- An address sum under the address size: with 32 bits, modulo 2^32 and zero-extended (R55, R89). -/
def addressSum (a32 : Bool) (v : Addr) : Addr :=
  if a32 then (v.setWidth 32).setWidth 64 else v

/-- A general register read for an address: its low 32 bits under the 32-bit address size (R89). -/
def State.addressReg (s : State) (a32 : Bool) (i : BitVec 4) : Addr := addressSum a32 (s.readGpr i)

/-- The displacement added: `disp8` times 2, `disp32` unscaled, both sign-extended (R87, R88). -/
def Disp.offset : Disp → Addr
  | .none => 0
  | .disp8 d => 2 * d.signExtend 64
  | .disp32 d => d.signExtend 64

/-- The index term of a SIB byte: none for the index number 0100b (R85). -/
def State.indexTerm (s : State) (a32 : Bool) (ss : BitVec 2) (i : BitVec 4) : Addr :=
  if i = 4 then 0 else s.addressReg a32 i <<< ss.toNat

/-- The effective address (R84 to R86, R89); `next` is the address of the next instruction. -/
def State.effectiveAddress (s : State) (a32 : Bool) (next : Addr) (m : MemOperand) : Addr :=
  addressSum a32 <|
    match m with
    | .base _ b d => s.addressReg a32 b + Disp.offset d
    | .ripDisp _ _ d =>
      match s.cfg.mode with
      | .mode64 => next + d.signExtend 64
      | .mode32 => d.signExtend 64
    | .sib ss i b d => s.addressReg a32 b + s.indexTerm a32 ss i + Disp.offset d
    | .sibNoBase ss i _ d => s.indexTerm a32 ss i + d.signExtend 64

/-- The default segment of a base register: SS for registers 4 and 5, else DS (R90). -/
def baseSegment (b : BitVec 4) : Segment := if b = 4 ∨ b = 5 then .ss else .ds

/-- The segment without an override (R90). -/
def defaultSegment : MemOperand → Segment
  | .base _ b _ => baseSegment b
  | .sib _ _ b _ => baseSegment b
  | .ripDisp _ _ _ => .ds
  | .sibNoBase _ _ _ _ => .ds

/-- The segment a prefix selects: any override in `Mode32`, only FS and GS in `Mode64` (R90). -/
def overrideSegment (m : Mode) : LegacyPrefix → Option Segment
  | .fs => some .fs
  | .gs => some .gs
  | .es => if m = .mode32 then some .es else none
  | .cs => if m = .mode32 then some .cs else none
  | .ss => if m = .mode32 then some .ss else none
  | .ds => if m = .mode32 then some .ds else none
  | .addrSize => none

/-- The segment of the memory operand (R90). -/
def State.segment (s : State) (ops : Operands) (m : MemOperand) : Segment :=
  match ops.legacy.findSome? (overrideSegment s.cfg.mode) with
  | some seg => seg
  | none => defaultSegment m

/-- The linear address `SegBase(seg) + ea` of the memory operand (R57). -/
def State.linearAddress (s : State) (ops : Operands) (m : MemOperand) : Addr :=
  s.segBase (s.segment ops m) +
    s.effectiveAddress (s.address32 ops) (s.nextRip ops.length) m

/-- The exception that the access of the memory operand raises, if any (R205 to R207, R210). -/
def State.accessFault (s : State) (ops : Operands) (m : MemOperand) : Option Exception :=
  s.checkM16 (s.segment ops m) (s.linearAddress ops m)

/-- The value `B` of operand 3 (R111), or the exception its access raises. -/
def State.readSrc3 (s : State) (ops : Operands) : Except Exception Half :=
  match ops.src3 with
  | .reg s3 _ => .ok (s.readHalf s3)
  | .mem _ m =>
    match s.accessFault ops m with
    | some e => .error e
    | none => .ok (s.readM16 (s.linearAddress ops m))

/-- What a masked-off instruction does with operand 3 (R60): the number of free choices consumed so far, or the
exception of an access that is performed. The choice can matter only where the access would fault (R250). -/
def State.maskedOffSrc3 (s : State) (ops : Operands) : Except Exception Nat :=
  match ops.src3 with
  | .reg _ _ => .ok s.draws
  | .mem _ m =>
    match s.accessFault ops m, s.cfg.maskedOffMem with
    | none, _ => .ok s.draws
    | some _, .suppress => .ok s.draws
    | some e, .perform => .error e
    | some e, .either => if Config.maskedOffPerforms s.draws then .error e else .ok (s.draws + 1)

end Sys2Proof.Machine
end

