-- ==== Sys2Proof/Machine/Fmsub.lean ====
section
/-! DEFINITION. The six instructions (spec/40_fmsub_sh.md R120 to R125) over their shared execution (R110). -/

namespace Sys2Proof.Machine

/-- `FMS16` on the source values in the instruction's operand order (R112). -/
def arithmetic (neg : Bool) (order : OperandOrder) (e : FmsEnv) (D A B : Half) : FmsOutcome :=
  let (x, y, z) := order.arrange D A B
  fms16 e neg x y z

/-- Steps 7 and 8 of R110: a trap sets the flags and raises #XM, or #UD where CR4.OSXMMEXCPT is 0 (R208); a
result is committed. -/
def finish (ops : Operands) (out : FmsOutcome) (s : State) : Host.Outcome State Fault Refusal :=
  match out with
  | .trap f => raise (if s.osxmmexcpt then .xm else .ud) (s.signal f)
  | .result r f => .next (s.commit ops.dest r f ops.length)

/-- Steps 2 to 8 of R110, for the sign and the operand order of an instruction: #UD, #NM, the mask, the operands,
the arithmetic, and the trap or the commit. -/
def execFms (neg : Bool) (order : OperandOrder) (ops : Operands) (s : State) :
    Host.Outcome State Fault Refusal :=
  if s.lengthUd ops.src3 || !s.fp16Usable then raise .ud s
  else if s.cr0TS then raise .nm s
  else if s.maskBit ops.mask then
    match s.readSrc3 ops with
    | .error e => raise e s
    | .ok b =>
      finish ops (arithmetic neg order (s.fmsEnv ops.src3) (s.readHalf ops.dest) (s.readHalf ops.src2) b) s
  else
    match s.maskedOffSrc3 ops with
    | .error e => raise e s
    | .ok n =>
      .next ((s.commit ops.dest (maskedLow ops.mask (s.readHalf ops.dest)) FpFlags.empty ops.length).setDraws n)

/-- `VFMSUB132SH`: round(D × B − A) (R120). -/
def execVfmsub132sh (ops : Operands) (s : State) : Host.Outcome State Fault Refusal :=
  execFms false .o132 ops s

/-- `VFMSUB213SH`: round(A × D − B) (R121). -/
def execVfmsub213sh (ops : Operands) (s : State) : Host.Outcome State Fault Refusal :=
  execFms false .o213 ops s

/-- `VFMSUB231SH`: round(A × B − D) (R122). -/
def execVfmsub231sh (ops : Operands) (s : State) : Host.Outcome State Fault Refusal :=
  execFms false .o231 ops s

/-- `VFNMSUB132SH`: round(−(D × B) − A) (R123). -/
def execVfnmsub132sh (ops : Operands) (s : State) : Host.Outcome State Fault Refusal :=
  execFms true .o132 ops s

/-- `VFNMSUB213SH`: round(−(A × D) − B) (R124). -/
def execVfnmsub213sh (ops : Operands) (s : State) : Host.Outcome State Fault Refusal :=
  execFms true .o213 ops s

/-- `VFNMSUB231SH`: round(−(A × B) − D) (R125). -/
def execVfnmsub231sh (ops : Operands) (s : State) : Host.Outcome State Fault Refusal :=
  execFms true .o231 ops s

end Sys2Proof.Machine
end

