-- ==== Sys2Proof/Machine/Dispatch.lean ====
section
/-! DEFINITION. One arm per instruction (spec/30_encoding.md R78). -/

namespace Sys2Proof.Machine

/-- The meaning of an instruction. -/
def exec (i : Instr) (s : State) : Host.Outcome State Fault Refusal :=
  match i with
  | .vfmsub132sh ops => Sys2Proof.Machine.execVfmsub132sh ops s
  | .vfmsub213sh ops => Sys2Proof.Machine.execVfmsub213sh ops s
  | .vfmsub231sh ops => Sys2Proof.Machine.execVfmsub231sh ops s
  | .vfnmsub132sh ops => Sys2Proof.Machine.execVfnmsub132sh ops s
  | .vfnmsub213sh ops => Sys2Proof.Machine.execVfnmsub213sh ops s
  | .vfnmsub231sh ops => Sys2Proof.Machine.execVfnmsub231sh ops s

end Sys2Proof.Machine
end

