-- ==== Sys2Proof/Machine/Fetch.lean ====
section
/-! DEFINITION. Fetching and running one instruction (spec/20_memory.md R51, 40_fmsub_sh.md R110 step 1), and
what a launch sets up (spec/70_reset_and_hazards.md R241, R243). -/

namespace Sys2Proof.Machine

/-- The byte at offset `n` from `rip`, or the exception its fetch raises: #GP(0) at a non-canonical address,
#PF where `Translate` refuses (R205 (b), R206). Addresses are taken modulo 2^64 (R50, log 18). -/
def State.fetchByte (s : State) (n : Nat) : Except Exception Byte :=
  let a := s.rip + BitVec.ofNat 64 n
  if !s.canonicalAt a then .error .gp
  else
    match s.translate a .fetch with
    | some e => .error e
    | none => .ok (s.readByte a)

/-- One step (R110): a state the machine does not have is refused (log 14); then the bytes at `rip` are decoded,
and the instruction is executed if the vector registers it names exist (log 25), or the fault or refusal of its
bytes is answered. -/
def fetchAndRun (s : State) : Host.Outcome State Fault Refusal :=
  if !s.admissible then .refused .inadmissibleState
  else
    match decodeFrom s.cfg.mode s.fetchByte with
    | .error e => raise e s
    | .ok (.refused r) => .refused (.undefinedEncoding r)
    | .ok .gp0 => raise .gp s
    | .ok .ud => raise .ud s
    | .ok (.instr i) => if s.registersExist i.ops then exec i s else .refused .noSuchRegister

/-- The registers after the software of R241 has enabled the instructions: protected mode (PE = 1, TS = 0,
VM = 0), OSFXSR, OSXMMEXCPT and OSXSAVE in CR4, and the state components in XCR0; and TF = 0 (R230). -/
def System.boot (y : System) : System :=
  { y with
    cpuidFp16 := true
    cr0 := (y.cr0 ||| 0x1) &&& ~~~0x8
    cr4 := y.cr4 ||| 0x40600
    xcr0 := y.xcr0 ||| 0xE7
    rflags := y.rflags &&& ~~~0x20100 }

/-- A state in which the instructions are enabled (R241, R244; log 12). -/
def State.boot (s : State) : State := { s with sys := System.boot s.sys }

/-- Bytes placed in memory at `rip` onward (R243, R245). -/
def State.loadAtRip (s : State) (bytes : List Byte) : State :=
  { s with mem := Memory.writeBytes s.mem s.rip bytes }

end Sys2Proof.Machine
end

