-- ==== Sys2Proof/Machine/Step.lean ====
section
/-! DEFINITION. One step of the machine (spec/40_fmsub_sh.md R110). -/

namespace Sys2Proof.Machine

/-- One step: the instruction at `rip`. -/
def step (s : State) : Host.Outcome State Fault Refusal := fetchAndRun s

/-- The state with an opcode-table word launched: its bytes, then zeros up to 15 bytes, at `rip`, and the
instructions enabled, as R241 says software does before the first of them (log 12). -/
def State.withFetchWord (s : State) (nbits w : Nat) : State :=
  s.boot.loadAtRip (tableBytes nbits w)

end Sys2Proof.Machine
end

