-- ==== Sys2Proof/Machine/Run.lean ====
section
/-! DEFINITION. A run and its end (spec/70_reset_and_hazards.md R246). -/

namespace Sys2Proof.Machine

/-- How a run stands after a number of steps (R246). -/
inductive RunOutcome where
  /-- `rip = CODE_END` after a completed step: the run has ended normally. -/
  | ended (final : State)
  /-- The run goes on. -/
  | running (s : State)
  /-- The run ended in a fault (R220). -/
  | faulted (f : Fault)
  /-- The run ended in a refusal (R95). -/
  | refused (r : Refusal)
  deriving DecidableEq, Repr

/-- At most `n` steps of a run, ending when `rip = CODE_END` after a completed step, or at the first fault or
refusal (R246). -/
def run : Nat → State → RunOutcome
  | 0, s => .running s
  | n + 1, s =>
    match step s with
    | .next t => if t.rip = t.cfg.codeEnd then .ended t else run n t
    | .fault f => .faulted f
    | .refused r => .refused r

end Sys2Proof.Machine
end

