-- ==== Sys2Proof/Safety.lean ====
section
/-! DEFINITION. What claims mean by an enabled machine, a safe step and a safe run
(spec/70_reset_and_hazards.md R244, R246). -/

namespace Sys2Proof.Machine

/-- The environment lets the instructions execute (R244): `FP16_USABLE` is true and `CR0_TS` is false. -/
abbrev State.Enabled (s : State) : Prop := s.fp16Usable = true ∧ s.cr0TS = false

/-- A step is safe if it has a next state. -/
def SafeStep (s : State) : Prop := ∃ t, step s = .next t

/-- A run of at most `n` steps is safe if it neither faults nor is refused. -/
def SafeRun (n : Nat) (s : State) : Prop := (∃ t, run n s = .ended t) ∨ ∃ t, run n s = .running t

/-! ## What a completed instruction leaves -/

/-- The state `t` after an instruction that completes in the state `s` with the low element `low` and the flags
`f`: its destination `d`, the flags and `rip` are written, everything else is as before (R20, R22, R27, R32,
R115). `draws` is the number of free choices consumed by then. -/
structure Completed (s t : State) (d : BitVec 5) (low : Half) (f : FpFlags) (len draws : Nat) : Prop where
  low : t.readHalf d = low
  kept : (t.readZmm d).extractLsb' 16 112 = (s.readZmm d).extractLsb' 16 112
  zeroed : (t.readZmm d).extractLsb' 128 384 = 0
  others : ∀ j, j ≠ d → t.readZmm j = s.readZmm j
  flags : t.mxcsr.extractLsb' 0 6 = s.mxcsr.extractLsb' 0 6 ||| f.toBits
  control : t.mxcsr.extractLsb' 6 26 = s.mxcsr.extractLsb' 6 26
  rip : t.rip = s.nextRip len
  k : ∀ j, t.readK j = s.readK j
  gpr : ∀ j, t.readGpr j = s.readGpr j
  mem : ∀ a, t.readByte a = s.readByte a
  sys : t.sys = s.sys
  cfg : t.cfg = s.cfg
  draws : t.draws = draws

/-- The arithmetic of each instruction on its operands in the state `s`, `b` being the value of operand 3
(R120 to R125). -/
def State.outcome (s : State) (i : Instr) (b : Half) : FmsOutcome :=
  let e := s.fmsEnv i.ops.src3
  let d := s.readHalf i.ops.dest
  let a := s.readHalf i.ops.src2
  match i with
  | .vfmsub132sh _ => fms16 e false d b a
  | .vfmsub213sh _ => fms16 e false a d b
  | .vfmsub231sh _ => fms16 e false a b d
  | .vfnmsub132sh _ => fms16 e true d b a
  | .vfnmsub213sh _ => fms16 e true a d b
  | .vfnmsub231sh _ => fms16 e true a b d

/-- Every exception that the instructions can signal is masked (R30). -/
abbrev State.AllMasked (s : State) : Prop :=
  s.mxcsr.getLsbD 7 = true ∧ s.mxcsr.getLsbD 8 = true ∧ s.mxcsr.getLsbD 10 = true ∧
    s.mxcsr.getLsbD 11 = true ∧ s.mxcsr.getLsbD 12 = true

/-! ## What the result can depend on (R133) -/

/-- The general registers that a memory form names (R84, R85). -/
def NamesReg (m : MemOperand) (r : BitVec 4) : Prop :=
  match m with
  | .base _ b _ => r = b
  | .ripDisp _ _ _ => False
  | .sib _ i b _ => r = b ∨ (r = i ∧ i ≠ 4)
  | .sibNoBase _ i _ _ => r = i ∧ i ≠ 4

/-- Two states that agree on everything the result of an instruction with the operands `ops` is a function of
(R133). -/
structure State.AgreeFor (ops : Operands) (s u : State) : Prop where
  cfg : u.cfg = s.cfg
  sys : u.sys = s.sys
  rip : u.rip = s.rip
  draws : u.draws = s.draws
  dest : (u.readZmm ops.dest).extractLsb' 0 128 = (s.readZmm ops.dest).extractLsb' 0 128
  src2 : u.readHalf ops.src2 = s.readHalf ops.src2
  src3 : ∀ s3 rc, ops.src3 = .reg s3 rc → u.readHalf s3 = s.readHalf s3
  mask : u.maskBit ops.mask = s.maskBit ops.mask
  control : u.mxcsr.extractLsb' 7 8 = s.mxcsr.extractLsb' 7 8
  flags : u.mxcsr.extractLsb' 0 6 = s.mxcsr.extractLsb' 0 6
  gpr : ∀ ll m, ops.src3 = .mem ll m → ∀ r, NamesReg m r → u.readGpr r = s.readGpr r
  low : ∀ ll m, ops.src3 = .mem ll m →
    u.readByte (s.linearAddress ops m) = s.readByte (s.linearAddress ops m)
  high : ∀ ll m, ops.src3 = .mem ll m →
    u.readByte (s.linearAddress ops m + 1) = s.readByte (s.linearAddress ops m + 1)

/-! ## Bytes that are given or denied a meaning (R94 to R96) -/

/-- Bytes that may stand before the `62H`: the seven prefixes of R72 and those that make #UD. -/
abbrev PrefixBytes (m : Mode) (pre : List Byte) : Prop :=
  ∀ b ∈ pre, (LegacyPrefix.ofByte b).isSome = true ∨ forbiddenPrefix m b = true

/-- At most one segment override, and no 16-bit address size (R72, R89). -/
abbrev PrefixesAdmitted (m : Mode) (pre : List Byte) : Prop :=
  ((pre.filterMap LegacyPrefix.ofByte).filter LegacyPrefix.isSegment).length ≤ 1 ∧
    (m = .mode32 → 0x67#8 ∉ pre)

/-- The bytes after the `62H` select one of the six opcodes: `mmm` = 110b, `pp` = 01b, `W` = 0, `OPC` one of
the six (R94), and in `Mode32` the extension bits of R93. -/
abbrev SelectsOne (m : Mode) (p0 p1 p2 opc : Byte) : Prop :=
  p0.extractLsb' 0 3 = 6#3 ∧ p1.extractLsb' 0 2 = 1#2 ∧ p1.getLsbD 7 = false ∧
    opc ∈ [0x9B#8, 0xAB#8, 0xBB#8, 0x9F#8, 0xAF#8, 0xBF#8] ∧
    (m = .mode32 → p0.extractLsb' 4 4 = 0xF#4 ∧ p1.getLsbD 6 = true ∧ p2.getLsbD 3 = true)

/-- The #UD conditions of R94 that the bytes decide: the reserved bits, zeroing without a writemask, `b` with a
memory operand, and a forbidden prefix. -/
abbrev Reserved (m : Mode) (pre : List Byte) (p0 p1 p2 modrm : Byte) : Prop :=
  p0.getLsbD 3 = true ∨ p1.getLsbD 2 = false ∨
    (p2.getLsbD 7 = true ∧ p2.extractLsb' 0 3 = 0#3) ∨
    (p2.getLsbD 4 = true ∧ modrm.extractLsb' 6 2 ≠ 3#2) ∨
    ∃ b ∈ pre, forbiddenPrefix m b = true

/-- `nsib + ndisp` (R96), from ModRM and the byte after it. -/
def operandTail (modrm next : Byte) : Nat :=
  let mod := modrm.extractLsb' 6 2
  let rm := modrm.extractLsb' 0 3
  if mod = 3#2 then 0
  else
    (if rm = 4#3 then 1 else 0) +
      (if mod = 1#2 then 1
       else if mod = 2#2 then 4
       else if rm = 5#3 ∨ (rm = 4#3 ∧ next.extractLsb' 0 3 = 5#3) then 4
       else 0)

/-! ## The arithmetic in rational numbers -/

/-- `val` extended to the exact real of R155: `(−1)^neg × val(x) × val(y) − val(z)`. -/
def exactReal (neg : Bool) (x y z : Half) : ℚ :=
  (if neg then -(val x * val y) else val x * val y) - val z

/-- The flags of an outcome. -/
def FmsOutcome.flags : FmsOutcome → FpFlags
  | .result _ f => f
  | .trap f => f

/-- The exact values whose rounding with unbounded exponent is at least 2^16 in magnitude (R163): the halfway
point between 65504 and 65536 under `RN`; where the magnitude is rounded down, 65536; where it is rounded up,
anything above 65504. -/
def Overflows (rm : RoundMode) (v : ℚ) : Prop :=
  match rm with
  | .rn => 65520 ≤ |v|
  | .rz => 65536 ≤ |v|
  | .ru => 65504 < v ∨ v ≤ -65536
  | .rd => 65536 ≤ v ∨ v < -65504

/-- The non-zero exact values whose rounding with unbounded exponent is below 2^−14 in magnitude (R164). The
numbers of 11 significant bits next to 2^−14 are 2^−14 − 2^−25 and 2^−14 itself. -/
def IsTiny (rm : RoundMode) (v : ℚ) : Prop :=
  match rm with
  | .rn => |v| < 1 / 2 ^ 14 - 1 / 2 ^ 26
  | .rz => |v| < 1 / 2 ^ 14
  | .ru => -(1 / 2 ^ 14) < v ∧ v ≤ 1 / 2 ^ 14 - 1 / 2 ^ 25
  | .rd => -(1 / 2 ^ 14 - 1 / 2 ^ 25) ≤ v ∧ v < 1 / 2 ^ 14

/-- The exact values whose rounding with unbounded exponent is exact: those of 11 significant bits (R162, R167). -/
def FitsElevenBits (v : ℚ) : Prop := ∃ (n q : Int), |n| < 2 ^ 11 ∧ v = n * 2 ^ q

/-- The exact values whose denormalised rounding is exact: the multiples of 2^−24 (R164, R167). -/
def IsDenormalMultiple (v : ℚ) : Prop := ∃ n : Int, v = n / 2 ^ 24

/-! ## The invariant -/

/-- The invariant of the machine: memory keeps its canonical form and the state is one the spec admits (R26,
R34, R57, R230). -/
abbrev State.Inv (s : State) : Prop := Memory.wf s.mem ∧ s.admissible = true

end Sys2Proof.Machine
end

