-- ==== Sys2Proof/Certificates/Slice0/Obligations.lean ====
section
/-! DEFINITION. The statements about the machine, each a proposition to be proved. -/

open Sys2Proof Sys2Proof.Machine

/-! ## Encoding -/

/-- R70 to R97: the bytes of a well-formed instruction, whatever follows them, decode to it, in both modes. -/
def Obligations.DecodeOfEncode : Prop :=
  ∀ (m : Mode) (i : Instr) (rest : List Byte),
    i.wf m = true → decode m (encode i ++ rest) = .instr i

/-- R70 to R97: bytes that decode to an instruction begin with its encoding, and it is well formed. -/
def Obligations.DecodedBytesAreTheEncoding : Prop :=
  ∀ (m : Mode) (bytes : List Byte) (i : Instr),
    decode m bytes = .instr i → i.wf m = true ∧ bytes.take i.length = encode i

/-- R102: the worked encodings. -/
def Obligations.WorkedEncodingsDecode : Prop :=
  decode .mode64 [0x62, 0xF6, 0x6D, 0x08, 0x9B, 0xCB] =
    .instr (.vfmsub132sh ⟨[], 1, 2, .reg 3 (.dynamic 0), .unmasked⟩) ∧
  decode .mode64 [0x62, 0x06, 0x15, 0x00, 0x9B, 0xF4] =
    .instr (.vfmsub132sh ⟨[], 30, 29, .reg 28 (.dynamic 0), .unmasked⟩) ∧
  decode .mode64 [0x62, 0xF6, 0x6D, 0x78, 0x9B, 0xCB] =
    .instr (.vfmsub132sh ⟨[], 1, 2, .reg 3 (.embedded .rz), .unmasked⟩) ∧
  decode .mode64 [0x62, 0xF6, 0x6D, 0x89, 0x9B, 0x08] =
    .instr (.vfmsub132sh ⟨[], 1, 2, .mem 0 (.base 0 0 .none), .zeroing .k1⟩) ∧
  decode .mode64 [0x62, 0xF6, 0x6D, 0x08, 0x9B, 0x48, 0x01] =
    .instr (.vfmsub132sh ⟨[], 1, 2, .mem 0 (.base 0 0 (.disp8 1)), .unmasked⟩) ∧
  decode .mode64 [0x62, 0xE6, 0x35, 0x08, 0xAF, 0x0D, 0x00, 0x01, 0x00, 0x00] =
    .instr (.vfnmsub213sh ⟨[], 17, 9, .mem 0 (.ripDisp 0 0 0x100), .unmasked⟩) ∧
  decode .mode64 [0x64, 0x62, 0x16, 0x05, 0x02, 0xBF, 0x44, 0xF5, 0x20] =
    .instr (.vfnmsub231sh ⟨[.fs], 8, 31, .mem 0 (.sib 3 14 13 (.disp8 0x20)), .merging .k2⟩)

/-- R94, R202: an encoding of one of the six instructions of at most 15 bytes that sets a reserved bit, asks
for zeroing without a writemask, sets `b` with a memory operand or has a forbidden prefix is #UD. That the
prefixes are to be admitted ones is log 17. -/
def Obligations.ReservedEncodingsAreUd : Prop :=
  ∀ (m : Mode) (pre : List Byte) (p0 p1 p2 opc modrm : Byte) (tail : List Byte),
    PrefixBytes m pre → PrefixesAdmitted m pre → SelectsOne m p0 p1 p2 opc →
    operandTail modrm (tail.headD 0) ≤ tail.length →
    pre.length + 6 + operandTail modrm (tail.headD 0) ≤ 15 →
    Reserved m pre p0 p1 p2 modrm →
    decode m (pre ++ 0x62 :: p0 :: p1 :: p2 :: opc :: modrm :: tail) = .ud

/-- R71, R94: an encoding of one of the six instructions of more than 15 bytes is #GP(0), whether or not it
is reserved. That the bytes are all read first and the prefixes are unlimited is log 16. -/
def Obligations.OverlongInstructionsAreGp0 : Prop :=
  ∀ (m : Mode) (pre : List Byte) (p0 p1 p2 opc modrm : Byte) (tail : List Byte),
    PrefixBytes m pre → PrefixesAdmitted m pre → SelectsOne m p0 p1 p2 opc →
    pre.length < 2 ^ 64 →
    operandTail modrm (tail.headD 0) ≤ tail.length →
    15 < pre.length + 6 + operandTail modrm (tail.headD 0) →
    decode m (pre ++ 0x62 :: p0 :: p1 :: p2 :: opc :: modrm :: tail) = .gp0

/-- R95: bytes are refused whose first byte after the prefixes is not `62H`, or whose payload and opcode select
none of the six instructions (log 23), or that have two segment overrides or the 16-bit address size, whatever
follows (log 15, 17), and not for want of bytes: a step on them is refused. -/
def Obligations.OtherBytesAreRefused : Prop :=
  (∀ (m : Mode) (pre : List Byte) (b : Byte) (rest : List Byte),
    PrefixBytes m pre → LegacyPrefix.ofByte b = none → forbiddenPrefix m b = false → b ≠ 0x62 →
    ∃ why, why ≠ .truncated ∧ decode m (pre ++ b :: rest) = .refused why) ∧
  (∀ (m : Mode) (pre : List Byte) (p0 p1 p2 opc : Byte) (rest : List Byte),
    PrefixBytes m pre → ¬ (PrefixesAdmitted m pre ∧ SelectsOne m p0 p1 p2 opc) →
    ∃ why, why ≠ .truncated ∧ decode m (pre ++ 0x62 :: p0 :: p1 :: p2 :: opc :: rest) = .refused why)

/-! ## The step -/

/-- R110: where the bytes at `rip` are fetched and are those of a well-formed instruction, a step is its
execution. That the state is to be admissible is log 14, that the vector registers named are to exist, as they do
at the values of R7, is log 25. -/
def Obligations.StepRunsTheDecodedInstruction : Prop :=
  ∀ (s : State) (i : Instr), s.admissible = true → i.wf s.cfg.mode = true →
    (∀ (k : Nat) (h : k < (encode i).length), s.fetchByte k = .ok (encode i)[k]) →
    (s.registersExist i.ops = true → step s = exec i s) ∧
    (s.cfg.nVReg64 = 32 → s.cfg.nVReg32 = 8 → s.registersExist i.ops = true)

/-- R110 step 1, R94, R95: a step answers what the decoder answers on the bytes at `rip`, in an admissible state
(log 14), as soon as they decide it (log 15). An instruction is refused that names a vector register whose number
is not below `NVREG` (log 25), and an inadmissible state always is. -/
def Obligations.StepFollowsTheDecoder : Prop :=
  ∀ (s : State) (bytes : List Byte),
    (s.admissible = false → step s = .refused .inadmissibleState) ∧
    (s.admissible = true →
      (∀ (k : Nat) (h : k < bytes.length), s.fetchByte k = .ok bytes[k]) →
      match decode s.cfg.mode bytes with
      | .instr i =>
        (i.ops.dest.toNat < s.cfg.nVReg → i.ops.src2.toNat < s.cfg.nVReg →
          (∀ s3 rc, i.ops.src3 = .reg s3 rc → s3.toNat < s.cfg.nVReg) → step s = exec i s) ∧
        ((s.cfg.nVReg ≤ i.ops.dest.toNat ∨ s.cfg.nVReg ≤ i.ops.src2.toNat ∨
            ∃ s3 rc, i.ops.src3 = .reg s3 rc ∧ s.cfg.nVReg ≤ s3.toNat) →
          step s = .refused .noSuchRegister)
      | .ud => step s = .fault (.ud s)
      | .gp0 => step s = .fault (.gp s)
      | .refused .truncated => True
      | .refused why => step s = .refused (.undefinedEncoding why))

/-- R205 (b), R206, R210 step 1: a fetch that fails at a byte of an instruction, the bytes before it being
those of the instruction, faults: #GP(0) at a non-canonical address, else #PF with the code that `Translate`
answers and that address. Addresses are modulo 2^64 in both modes (log 18). -/
def Obligations.FetchFaultsAtTheFirstFailingByte : Prop :=
  ∀ (s : State) (i : Instr) (n : Nat), s.admissible = true → i.wf s.cfg.mode = true →
    n < (encode i).length →
    (∀ (k : Nat) (h : k < (encode i).length), k < n → s.fetchByte k = .ok (encode i)[k]) →
    (s.canonicalAt (s.rip + BitVec.ofNat 64 n) = false → step s = .fault (.gp s)) ∧
    (∀ code a, s.canonicalAt (s.rip + BitVec.ofNat 64 n) = true →
      s.translate (s.rip + BitVec.ofNat 64 n) .fetch = some (.pf code a) →
      a = s.rip + BitVec.ofNat 64 n ∧ step s = .fault (.pf code a s))

/-- R20, R22, R110: a step that has a next state executed a well-formed instruction whose bytes stand at `rip`.
Of the vector registers it wrote only the destination, whose bits above 127 are zero and whose bits 127:16 are as
before. Opmask and general registers, memory, `MXCSR[31:6]`, the control registers and the configuration are as
before. -/
def Obligations.StepFrame : Prop :=
  ∀ s t : State, step s = .next t → ∃ i : Instr,
    i.wf s.cfg.mode = true ∧
    (∀ (k : Nat) (h : k < (encode i).length), s.fetchByte k = .ok (encode i)[k]) ∧
    exec i s = .next t ∧
    (∀ j, j ≠ i.ops.dest → t.readZmm j = s.readZmm j) ∧
    (t.readZmm i.ops.dest).extractLsb' 16 112 = (s.readZmm i.ops.dest).extractLsb' 16 112 ∧
    (t.readZmm i.ops.dest).extractLsb' 128 384 = 0 ∧
    (∀ j, t.readK j = s.readK j) ∧ (∀ j, t.readGpr j = s.readGpr j) ∧
    (∀ a, t.readByte a = s.readByte a) ∧
    t.mxcsr.extractLsb' 6 26 = s.mxcsr.extractLsb' 6 26 ∧ t.sys = s.sys ∧ t.cfg = s.cfg

/-- R20, R32, R36, R61: however many steps a run takes, opmask and general registers, memory, `MXCSR[31:6]`,
`ZE`, the control registers and the configuration keep their launch values, and a flag that is set stays set. -/
def Obligations.RunFrame : Prop :=
  ∀ (n : Nat) (s t : State), (run n s = .running t ∨ run n s = .ended t) →
    (∀ j, t.readK j = s.readK j) ∧ (∀ j, t.readGpr j = s.readGpr j) ∧
    (∀ a, t.readByte a = s.readByte a) ∧
    t.mxcsr.extractLsb' 6 26 = s.mxcsr.extractLsb' 6 26 ∧
    t.mxcsr.getLsbD 2 = s.mxcsr.getLsbD 2 ∧
    (∀ b, s.mxcsr.getLsbD b = true → t.mxcsr.getLsbD b = true) ∧
    t.sys = s.sys ∧ t.cfg = s.cfg

/-- R211: whatever fault a step ends in, the state at that point has the vector, opmask and general registers,
the memory and `rip` of the state before; only for #XM, or #UD in its place where CR4.OSXMMEXCPT is 0, can
`MXCSR` differ, and then only in flags that were clear and are set. -/
def Obligations.FaultsArePrecise : Prop :=
  ∀ (s : State) (φ : Fault), step s = .fault φ →
    (∀ j, φ.final.readZmm j = s.readZmm j) ∧ (∀ j, φ.final.readK j = s.readK j) ∧
    (∀ j, φ.final.readGpr j = s.readGpr j) ∧ (∀ a, φ.final.readByte a = s.readByte a) ∧
    φ.final.rip = s.rip ∧ φ.final.sys = s.sys ∧ φ.final.cfg = s.cfg ∧
    φ.final.mxcsr.extractLsb' 6 26 = s.mxcsr.extractLsb' 6 26 ∧
    (∀ b, s.mxcsr.getLsbD b = true → φ.final.mxcsr.getLsbD b = true) ∧
    (φ.exception ≠ .xm → (φ.exception = .ud → s.osxmmexcpt = true) → φ.final = s)

/-- R27: a completing instruction adds its length to `rip`, modulo 2^64 in `Mode64` and modulo 2^32 in
`Mode32`; a faulting one leaves `rip`; and a run whose `rip` is no longer canonical faults with #GP(0) at the
next fetch. -/
def Obligations.RipRule : Prop :=
  (∀ (i : Instr) (s t : State), exec i s = .next t →
    (s.cfg.mode = .mode64 → t.rip.toNat = (s.rip.toNat + i.length) % 2 ^ 64) ∧
    (s.cfg.mode = .mode32 → t.rip.toNat = (s.rip.toNat + i.length) % 2 ^ 32)) ∧
  (∀ (i : Instr) (s : State) (φ : Fault), exec i s = .fault φ → φ.final.rip = s.rip) ∧
  (∀ s t : State, step s = .next t → s.cfg.mode = .mode64 → canonical s.cfg.vaBits t.rip = false →
    step t = .fault (.gp t))

/-- R246: one step of a run. After a completed step the run has ended where `rip` is `CODE_END`, and else goes on
from the next state; a fault and a refusal end it. Hence a run that has ended stays ended with the same final state,
and a run goes on from where it stands. That `run` and not `step` stops at `CODE_END` is log 24. -/
def Obligations.RunEnds : Prop :=
  (∀ s : State, run 0 s = .running s) ∧
  (∀ (n : Nat) (s t : State), step s = .next t → t.rip = t.cfg.codeEnd → run (n + 1) s = .ended t) ∧
  (∀ (n : Nat) (s t : State), step s = .next t → t.rip ≠ t.cfg.codeEnd → run (n + 1) s = run n t) ∧
  (∀ (n : Nat) (s : State) (φ : Fault), step s = .fault φ → run (n + 1) s = .faulted φ) ∧
  (∀ (n : Nat) (s : State) (r : Refusal), step s = .refused r → run (n + 1) s = .refused r) ∧
  (∀ (n m : Nat) (s t : State), run n s = .ended t → run (n + m) s = .ended t ∧ t.rip = t.cfg.codeEnd) ∧
  (∀ (n m : Nat) (s : State) (φ : Fault), run n s = .faulted φ → run (n + m) s = .faulted φ) ∧
  (∀ (n m : Nat) (s : State) (r : Refusal), run n s = .refused r → run (n + m) s = .refused r) ∧
  (∀ (n m : Nat) (s t : State), run n s = .running t → run (n + m) s = run m t)

/-! ## Reset, launch, invariant -/

/-- R39: the values after RESET that the spec gives. -/
def Obligations.ResetValues : Prop :=
  (∀ j, State.reset.readZmm j = 0) ∧ (∀ j, State.reset.readK j = 0) ∧
    (∀ j : BitVec 4, j ≠ 2 → State.reset.readGpr j = 0) ∧
    State.reset.rip = 0xFFF0 ∧ State.reset.mxcsr = 0x1F80 ∧ State.reset.sys.rflags = 2 ∧
    State.reset.sys.cr0 = 0x60000010 ∧ State.reset.sys.cr4 = 0 ∧ State.reset.sys.xcr0 = 1 ∧
    State.reset.sys.cpl = 0

/-- R240: after reset every one of the six instructions raises #UD. The mode and the fetch address after reset
are the model's choices (log 9, 11). -/
def Obligations.ResetRaisesUd : Prop :=
  ∀ i : Instr, i.wf .mode64 = true →
    step (State.reset.loadAtRip (encode i)) = .fault (.ud (State.reset.loadAtRip (encode i)))

/-- R241, R243: bytes placed at `rip` are read there, every other byte, every register and the configuration are as
before, and memory keeps its canonical form. That a launch loads a program so is the model's choice (log 12). -/
def Obligations.LaunchPlacesBytes : Prop :=
  ∀ (s : State) (bytes : List Byte), Memory.wf s.mem → bytes.length ≤ 2 ^ 64 →
    Memory.wf (s.loadAtRip bytes).mem ∧
    (∀ (k : Nat) (h : k < bytes.length),
      (s.loadAtRip bytes).readByte (s.rip + BitVec.ofNat 64 k) = bytes[k]) ∧
    (∀ a, (∀ k < bytes.length, a ≠ s.rip + BitVec.ofNat 64 k) →
      (s.loadAtRip bytes).readByte a = s.readByte a) ∧
    s.loadAtRip bytes = { s with mem := (s.loadAtRip bytes).mem }

/-- R241: what software sets up enables the instructions, with CR4.OSXMMEXCPT set. That it is set up outside the
machine is log 12. -/
def Obligations.BootEnables : Prop :=
  ∀ s : State, s.boot.Enabled ∧ s.boot.osxmmexcpt = true

/-- R26, R34, R39, R57, R230: the reset state has the invariant. `MXCSR` and RFLAGS are the values of R39; that
memory is canonical rests on log 7, and the clause on `Mode32` holds by the model's choice of the mode and the bases
(log 9, 10); what the invariant asks for is log 14. -/
def Obligations.ResetHasInv : Prop := State.reset.Inv

/-- R26, R34, R36, R230: from every state with the invariant, every next state and the state at every fault has it:
the memory keeps its canonical form, the reserved bits of `MXCSR` are zero, RFLAGS.TF is 0, and in `Mode32` the upper
half of `rip` is zero and the segments are flat (log 14). -/
def Obligations.StepKeepsInv : Prop :=
  ∀ s : State, s.Inv →
    (∀ t, step s = .next t → t.Inv) ∧ (∀ φ, step s = .fault φ → φ.final.Inv)

/-! ## Results and completion -/

/-- R120: `VFMSUB132SH` completes with round(D × B − A). -/
def Obligations.Vfmsub132shResult : Prop :=
  ∀ (ops : Operands) (s : State) (b r : Half) (f : FpFlags),
    s.Enabled → s.lengthUd ops.src3 = false → s.maskBit ops.mask = true → s.readSrc3 ops = .ok b →
    fms16 (s.fmsEnv ops.src3) false (s.readHalf ops.dest) b (s.readHalf ops.src2) = .result r f →
    ∃ t, exec (.vfmsub132sh ops) s = .next t ∧ Completed s t ops.dest r f ops.length s.draws

/-- R121: `VFMSUB213SH` completes with round(A × D − B). -/
def Obligations.Vfmsub213shResult : Prop :=
  ∀ (ops : Operands) (s : State) (b r : Half) (f : FpFlags),
    s.Enabled → s.lengthUd ops.src3 = false → s.maskBit ops.mask = true → s.readSrc3 ops = .ok b →
    fms16 (s.fmsEnv ops.src3) false (s.readHalf ops.src2) (s.readHalf ops.dest) b = .result r f →
    ∃ t, exec (.vfmsub213sh ops) s = .next t ∧ Completed s t ops.dest r f ops.length s.draws

/-- R122: `VFMSUB231SH` completes with round(A × B − D). -/
def Obligations.Vfmsub231shResult : Prop :=
  ∀ (ops : Operands) (s : State) (b r : Half) (f : FpFlags),
    s.Enabled → s.lengthUd ops.src3 = false → s.maskBit ops.mask = true → s.readSrc3 ops = .ok b →
    fms16 (s.fmsEnv ops.src3) false (s.readHalf ops.src2) b (s.readHalf ops.dest) = .result r f →
    ∃ t, exec (.vfmsub231sh ops) s = .next t ∧ Completed s t ops.dest r f ops.length s.draws

/-- R123: `VFNMSUB132SH` completes with round(−(D × B) − A). -/
def Obligations.Vfnmsub132shResult : Prop :=
  ∀ (ops : Operands) (s : State) (b r : Half) (f : FpFlags),
    s.Enabled → s.lengthUd ops.src3 = false → s.maskBit ops.mask = true → s.readSrc3 ops = .ok b →
    fms16 (s.fmsEnv ops.src3) true (s.readHalf ops.dest) b (s.readHalf ops.src2) = .result r f →
    ∃ t, exec (.vfnmsub132sh ops) s = .next t ∧ Completed s t ops.dest r f ops.length s.draws

/-- R124: `VFNMSUB213SH` completes with round(−(A × D) − B). -/
def Obligations.Vfnmsub213shResult : Prop :=
  ∀ (ops : Operands) (s : State) (b r : Half) (f : FpFlags),
    s.Enabled → s.lengthUd ops.src3 = false → s.maskBit ops.mask = true → s.readSrc3 ops = .ok b →
    fms16 (s.fmsEnv ops.src3) true (s.readHalf ops.src2) (s.readHalf ops.dest) b = .result r f →
    ∃ t, exec (.vfnmsub213sh ops) s = .next t ∧ Completed s t ops.dest r f ops.length s.draws

/-- R125: `VFNMSUB231SH` completes with round(−(A × B) − D). -/
def Obligations.Vfnmsub231shResult : Prop :=
  ∀ (ops : Operands) (s : State) (b r : Half) (f : FpFlags),
    s.Enabled → s.lengthUd ops.src3 = false → s.maskBit ops.mask = true → s.readSrc3 ops = .ok b →
    fms16 (s.fmsEnv ops.src3) true (s.readHalf ops.src2) b (s.readHalf ops.dest) = .result r f →
    ∃ t, exec (.vfnmsub231sh ops) s = .next t ∧ Completed s t ops.dest r f ops.length s.draws

/-- R110, R154, R173 (3): with operand 3 read, and every exception masked or embedded rounding, each of the six
instructions completes, whatever the operand values are. -/
def Obligations.AllSixCompleteWhenMasked : Prop :=
  ∀ (i : Instr) (s : State) (b : Half),
    s.Enabled → s.lengthUd i.ops.src3 = false → s.maskBit i.ops.mask = true →
    s.readSrc3 i.ops = .ok b →
    (s.AllMasked ∨ ∃ s3 rm, i.ops.src3 = .reg s3 (.embedded rm)) →
    ∃ t r f, exec i s = .next t ∧ s.outcome i b = .result r f ∧
      Completed s t i.ops.dest r f i.length s.draws

/-- R120 to R125: the worked lines, 2.0, 1.5 and 3.0 in operands 1, 2 and 3. -/
def Obligations.WorkedLines : Prop :=
  ∀ (ops : Operands) (s : State), s.Enabled → s.cfg.fp = FpParams.thisHardware →
    s.lengthUd ops.src3 = false → s.maskBit ops.mask = true → s.mxcsr = 0x1F80 →
    s.readHalf ops.dest = 0x4000 → s.readHalf ops.src2 = 0x3E00 → s.readSrc3 ops = .ok 0x4200 →
    (∀ s3 rm, ops.src3 ≠ .reg s3 (.embedded rm)) →
    (∃ t, exec (.vfmsub132sh ops) s = .next t ∧ t.readHalf ops.dest = 0x4480 ∧ t.mxcsr = s.mxcsr) ∧
    (∃ t, exec (.vfmsub213sh ops) s = .next t ∧ t.readHalf ops.dest = 0x0000 ∧ t.mxcsr = s.mxcsr) ∧
    (∃ t, exec (.vfmsub231sh ops) s = .next t ∧ t.readHalf ops.dest = 0x4100 ∧ t.mxcsr = s.mxcsr) ∧
    (∃ t, exec (.vfnmsub132sh ops) s = .next t ∧ t.readHalf ops.dest = 0xC780 ∧ t.mxcsr = s.mxcsr) ∧
    (∃ t, exec (.vfnmsub213sh ops) s = .next t ∧ t.readHalf ops.dest = 0xC600 ∧ t.mxcsr = s.mxcsr) ∧
    (∃ t, exec (.vfnmsub231sh ops) s = .next t ∧ t.readHalf ops.dest = 0xC680 ∧ t.mxcsr = s.mxcsr)

/-- R23, R24, R113, R115, R60: the mask bit is 1 without a writemask and otherwise bit 0 of the opmask register
named, `k1` to `k7`. With it 0 each of the six instructions completes where no access is made or the access would not
fault; element 0 is zeroed or kept, bits above 127 of the destination are zeroed, and `MXCSR` is unchanged. -/
def Obligations.MaskedOffCompletes : Prop :=
  (∀ s : State, s.maskBit .unmasked = true ∧
    ∀ p ∈ [(WriteMaskReg.k1, 1#3), (.k2, 2), (.k3, 3), (.k4, 4), (.k5, 5), (.k6, 6), (.k7, 7)],
      s.maskBit (.merging p.1) = (s.readK p.2).getLsbD 0 ∧
      s.maskBit (.zeroing p.1) = (s.readK p.2).getLsbD 0) ∧
  ∀ (i : Instr) (s : State),
    s.Enabled → s.lengthUd i.ops.src3 = false → s.maskBit i.ops.mask = false →
    (∀ ll m, i.ops.src3 = .mem ll m →
      s.accessFault i.ops m = none ∨ s.cfg.maskedOffMem = .suppress) →
    ∃ t, exec i s = .next t ∧ t.mxcsr = s.mxcsr ∧
      (∀ r, i.ops.mask = .zeroing r →
        Completed s t i.ops.dest 0 FpFlags.empty i.length s.draws) ∧
      (∀ r, i.ops.mask = .merging r →
        Completed s t i.ops.dest (s.readHalf i.ops.dest) FpFlags.empty i.length s.draws)

/-- R60: a masked-off access that would fault faults under `perform`, and under `either` faults or is
suppressed, as the model's free choice says (log 4). -/
def Obligations.MaskedOffFaultingAccess : Prop :=
  ∀ (i : Instr) (s : State) (ll : BitVec 2) (m : MemOperand) (e : Exception),
    s.Enabled → s.lengthUd i.ops.src3 = false → s.maskBit i.ops.mask = false →
    i.ops.src3 = .mem ll m → s.accessFault i.ops m = some e →
    (s.cfg.maskedOffMem = .perform → exec i s = .fault (e.toFault s)) ∧
    (s.cfg.maskedOffMem = .either →
      exec i s = .fault (e.toFault s) ∨
      ∃ t, exec i s = .next t ∧ t.mxcsr = s.mxcsr ∧
        (∀ r, i.ops.mask = .zeroing r →
          Completed s t i.ops.dest 0 FpFlags.empty i.length (s.draws + 1)) ∧
        (∀ r, i.ops.mask = .merging r →
          Completed s t i.ops.dest (s.readHalf i.ops.dest) FpFlags.empty i.length (s.draws + 1)))

/-- R30, R32: the only write to `MXCSR` is the OR of the flags that `FMS16` returns, IE in bit 0, DE 1, OE 3, UE 4,
PE 5 and never ZE in bit 2; bits 31:6 never change, no flag is cleared, and with embedded rounding or the mask bit 0
nothing changes. -/
def Obligations.MxcsrWrittenOnlyByOr : Prop :=
  (∀ f : FpFlags, f.toBits.getLsbD 0 = f.ie ∧ f.toBits.getLsbD 1 = f.de ∧ f.toBits.getLsbD 2 = false ∧
    f.toBits.getLsbD 3 = f.oe ∧ f.toBits.getLsbD 4 = f.ue ∧ f.toBits.getLsbD 5 = f.pe) ∧
  ∀ (i : Instr) (s t : State), exec i s = .next t →
    t.mxcsr.extractLsb' 6 26 = s.mxcsr.extractLsb' 6 26 ∧
    (∀ b, s.mxcsr.getLsbD b = true → t.mxcsr.getLsbD b = true) ∧
    ((∃ s3 rm, i.ops.src3 = .reg s3 (.embedded rm)) → t.mxcsr = s.mxcsr) ∧
    (s.maskBit i.ops.mask = false → t.mxcsr = s.mxcsr) ∧
    (s.maskBit i.ops.mask = true → ∃ b r f, s.readSrc3 i.ops = .ok b ∧ s.outcome i b = .result r f ∧
      t.mxcsr.extractLsb' 0 6 = s.mxcsr.extractLsb' 0 6 ||| f.toBits)

/-- R126 (2): in the register form with no NaN operand, the 132 form is the 213 form with operands 2 and 3
exchanged, with and without the negation. -/
def Obligations.Forms132And213Agree : Prop :=
  ∀ (ops : Operands) (s : State) (s3 : BitVec 5) (rc : RoundCtl),
    ops.src3 = .reg s3 rc →
    isNaN (s.readHalf ops.dest) = false → isNaN (s.readHalf ops.src2) = false →
    isNaN (s.readHalf s3) = false →
    exec (.vfmsub132sh ops) s = exec (.vfmsub213sh { ops with src2 := s3, src3 := .reg ops.src2 rc }) s ∧
    exec (.vfnmsub132sh ops) s = exec (.vfnmsub213sh { ops with src2 := s3, src3 := .reg ops.src2 rc }) s

/-- R133: what the result of an instruction is not a function of. Two states that agree on what R133 lists, and
may differ in every other register, bit of `MXCSR` and byte of memory, have the same outcome: the same new
destination, flags and `rip`, or the same exception. That they are to agree on the model's free choices too is
log 6. -/
def Obligations.ResultDependsOnlyOn : Prop :=
  ∀ (i : Instr) (s u : State), s.cfg.fp.honoursDazFtz = false → State.AgreeFor i.ops s u →
    (∀ t, exec i s = .next t → ∃ t', exec i u = .next t' ∧
      t'.readZmm i.ops.dest = t.readZmm i.ops.dest ∧ t'.rip = t.rip ∧
      t'.mxcsr.extractLsb' 0 6 = t.mxcsr.extractLsb' 0 6 ∧ t'.draws = t.draws) ∧
    (∀ φ, exec i s = .fault φ → ∃ φ', exec i u = .fault φ' ∧ φ'.exception = φ.exception ∧
      φ'.final.mxcsr.extractLsb' 0 6 = φ.final.mxcsr.extractLsb' 0 6)

/-- R250: an instruction whose access does not fault has the same outcome whatever the model's free choices are
(log 6). -/
def Obligations.ChoicesMatterOnlyWhereAnAccessFaults : Prop :=
  ∀ (i : Instr) (s : State) (n : Nat),
    (∀ ll m, i.ops.src3 = .mem ll m → s.accessFault i.ops m = none) →
    (∀ t, exec i s = .next t → exec i (s.setDraws n) = .next (t.setDraws n)) ∧
    (∀ φ, exec i s = .fault φ → ∃ φ', exec i (s.setDraws n) = .fault φ' ∧
      φ'.exception = φ.exception ∧ φ'.final = φ.final.setDraws n)

/-! ## Operands -/

/-- R77, R202 (U7): an encoding is #UD by its length field exactly where `LL3_WITHOUT_B` is `ud`, `b` is 0 and `L'L` is
11b; otherwise `L'L` without `b` does not matter. That the meaning and not the decoder raises it is log 22. -/
def Obligations.LengthFieldIgnored : Prop :=
  (∀ (s : State) (op3 : Operand3), s.lengthUd op3 = true ↔
    s.cfg.ll3 = .ud ∧ ((∃ s3, op3 = .reg s3 (.dynamic 3)) ∨ ∃ m, op3 = .mem 3 m)) ∧
  ∀ (mk : Operands → Instr), mk ∈ opcodeTable.map Prod.snd →
    ∀ (ops : Operands) (s : State) (ll : BitVec 2) (s3 : BitVec 5) (m : MemOperand),
      ((ll ≠ 3 ∨ s.cfg.ll3 = .ignore) →
        exec (mk { ops with src3 := .reg s3 (.dynamic ll) }) s =
          exec (mk { ops with src3 := .reg s3 (.dynamic 0) }) s ∧
        exec (mk { ops with src3 := .mem ll m }) s = exec (mk { ops with src3 := .mem 0 m }) s) ∧
      (s.cfg.ll3 = .ud →
        exec (mk { ops with src3 := .reg s3 (.dynamic 3) }) s = .fault (.ud s) ∧
        exec (mk { ops with src3 := .mem 3 m }) s = .fault (.ud s))

/-- R30, R31, R33, R110 (6), R114: what the arithmetic is given, for every form of operand 3: the masks and the bits
DAZ and FTZ of `MXCSR`, the parameters of R7, the rounding mode and the suppression of exceptions. -/
def Obligations.RoundingControl : Prop :=
  (∀ (s : State) (op3 : Operand3),
    (s.fmsEnv op3).masks.im = s.mxcsr.getLsbD 7 ∧ (s.fmsEnv op3).masks.dm = s.mxcsr.getLsbD 8 ∧
    (s.fmsEnv op3).masks.om = s.mxcsr.getLsbD 10 ∧ (s.fmsEnv op3).masks.um = s.mxcsr.getLsbD 11 ∧
    (s.fmsEnv op3).masks.pm = s.mxcsr.getLsbD 12 ∧ (s.fmsEnv op3).daz = s.mxcsr.getLsbD 6 ∧
    (s.fmsEnv op3).ftz = s.mxcsr.getLsbD 15 ∧ (s.fmsEnv op3).params = s.cfg.fp) ∧
  ∀ (s : State) (s3 : BitVec 5) (rm : RoundMode) (ll : BitVec 2) (m : MemOperand),
    ((s.fmsEnv (.reg s3 (.embedded rm))).rm = rm ∧ (s.fmsEnv (.reg s3 (.embedded rm))).sae = true) ∧
    (∀ op3, (op3 = .reg s3 (.dynamic ll) ∨ op3 = .mem ll m) →
      (s.fmsEnv op3).sae = false ∧
      (s.fmsEnv op3).rm =
        match s.mxcsr.getLsbD 14, s.mxcsr.getLsbD 13 with
        | false, false => .rn
        | false, true => .rd
        | true, false => .ru
        | true, true => .rz)

/-- R57, R84 to R89: the effective addresses under the 64-bit address size, and `disp32` alone in `Mode32`; which
address size applies; and the linear address, the segment's base plus the effective address, with
`next_rip = rip + len` in `Mode64` (in `Mode32` no form uses it). -/
def Obligations.EffectiveAddressForms : Prop :=
  ∀ (s : State) (next : Addr) (x bx : BitVec 1) (ss : BitVec 2) (i b : BitVec 4) (d8 : BitVec 8)
    (d32 : BitVec 32),
    (let index : Addr := if i = 4 then 0 else s.readGpr i * 2 ^ ss.toNat
     s.effectiveAddress false next (.base x b .none) = s.readGpr b ∧
     s.effectiveAddress false next (.base x b (.disp8 d8)) = s.readGpr b + 2 * d8.signExtend 64 ∧
     s.effectiveAddress false next (.base x b (.disp32 d32)) = s.readGpr b + d32.signExtend 64 ∧
     s.effectiveAddress false next (.sib ss i b .none) = s.readGpr b + index ∧
     s.effectiveAddress false next (.sib ss i b (.disp8 d8)) =
       s.readGpr b + index + 2 * d8.signExtend 64 ∧
     s.effectiveAddress false next (.sib ss i b (.disp32 d32)) =
       s.readGpr b + index + d32.signExtend 64 ∧
     s.effectiveAddress false next (.sibNoBase ss i bx d32) = index + d32.signExtend 64) ∧
    (s.cfg.mode = .mode64 →
      s.effectiveAddress false next (.ripDisp x bx d32) = next + d32.signExtend 64) ∧
    (s.cfg.mode = .mode32 → s.effectiveAddress true next (.ripDisp x bx d32) = d32.setWidth 64) ∧
    (∀ (ops : Operands) (m : MemOperand),
      (s.address32 ops = true ↔ s.cfg.mode = .mode32 ∨ .addrSize ∈ ops.legacy) ∧
      (s.cfg.mode = .mode64 → s.linearAddress ops m = s.segBase (s.segment ops m) +
        s.effectiveAddress (s.address32 ops) (s.rip + BitVec.ofNat 64 ops.length) m) ∧
      (s.cfg.mode = .mode32 → s.linearAddress ops m = s.segBase (s.segment ops m) +
        s.effectiveAddress (s.address32 ops) next m))

/-- R55, R89: the 32-bit address size gives the low 32 bits of the 64-bit sum, zero-extended. -/
def Obligations.AddressSize32 : Prop :=
  ∀ (s : State) (next : Addr) (m : MemOperand),
    s.effectiveAddress true next m = ((s.effectiveAddress false next m).setWidth 32).setWidth 64

/-- R90, R57: the segment of a memory operand and its base. Without an override the segment is SS for the base
registers 4 and 5 and DS otherwise; in `Mode32` an override replaces it; in `Mode64` only FS and GS do, and only
they have a base. -/
def Obligations.SegmentOfMemoryOperand : Prop :=
  ∀ (s : State) (ops : Operands) (m : MemOperand), legacyOk s.cfg.mode ops.legacy = true →
    (let default : Segment :=
      match m with
      | .base _ b _ => if b = 4 ∨ b = 5 then .ss else .ds
      | .sib _ _ b _ => if b = 4 ∨ b = 5 then .ss else .ds
      | .ripDisp _ _ _ => .ds
      | .sibNoBase _ _ _ _ => .ds
     (s.cfg.mode = .mode64 →
       (.fs ∈ ops.legacy → s.segment ops m = .fs) ∧ (.gs ∈ ops.legacy → s.segment ops m = .gs) ∧
       (.fs ∉ ops.legacy → .gs ∉ ops.legacy → s.segment ops m = default) ∧
       s.segBase .fs = s.sys.fsBase ∧ s.segBase .gs = s.sys.gsBase ∧
       (∀ g, g ≠ .fs → g ≠ .gs → s.segBase g = 0)) ∧
     (s.cfg.mode = .mode32 →
       (.es ∈ ops.legacy → s.segment ops m = .es) ∧ (.cs ∈ ops.legacy → s.segment ops m = .cs) ∧
       (.ss ∈ ops.legacy → s.segment ops m = .ss) ∧ (.ds ∈ ops.legacy → s.segment ops m = .ds) ∧
       (.fs ∈ ops.legacy → s.segment ops m = .fs) ∧ (.gs ∈ ops.legacy → s.segment ops m = .gs) ∧
       ((∀ p ∈ ops.legacy, p = .addrSize) → s.segment ops m = default) ∧
       (∀ g, s.segBase g = 0)))

/-- R111, R50, R56 to R59: operand 3 is `zmm[s3][15:0]` in the register form. In the memory form it is read exactly
where both bytes are canonical and translated and the address is even or unchecked, and its value is little-endian.
Addresses are modulo 2^64 in both modes (log 18). -/
def Obligations.MemoryOperandRead : Prop :=
  (∀ (s : State) (ops : Operands) (s3 : BitVec 5) (rc : RoundCtl), ops.src3 = .reg s3 rc →
    s.readSrc3 ops = .ok ((s.readZmm s3).extractLsb' 0 16)) ∧
  ∀ (s : State) (ops : Operands) (ll : BitVec 2) (m : MemOperand), ops.src3 = .mem ll m →
    (let la := s.linearAddress ops m
     ((∃ b, s.readSrc3 ops = .ok b) ↔
       (s.canonicalAt la = true ∧ s.canonicalAt (la + 1) = true ∧
         (s.acActive = true → la.toNat % 2 = 0) ∧
         s.translate la .read = none ∧ s.translate (la + 1) .read = none)) ∧
     (∀ b, s.readSrc3 ops = .ok b →
       b.extractLsb' 0 8 = s.readByte la ∧ b.extractLsb' 8 8 = s.readByte (la + 1)))

/-! ## Exceptions -/

/-- R203: each condition for the instructions to be usable, and #UD for all six without one of them. That the
registers are held rather than the one Boolean is log 2. -/
def Obligations.NotUsableIsUd : Prop :=
  ∀ (i : Instr) (s : State),
    ((s.sys.cpuidFp16 = true ∧ s.sys.cr4.getLsbD 18 = true ∧
      s.sys.xcr0.getLsbD 1 = true ∧ s.sys.xcr0.getLsbD 2 = true ∧
      s.sys.xcr0.getLsbD 5 = true ∧ s.sys.xcr0.getLsbD 6 = true ∧ s.sys.xcr0.getLsbD 7 = true ∧
      s.sys.cr0.getLsbD 0 = true ∧ s.sys.rflags.getLsbD 17 = false) ↔ s.fp16Usable = true) ∧
    (s.fp16Usable = false → exec i s = .fault (.ud s))

/-- R204: with CR0.TS set, an instruction that is not #UD is #NM, whatever its operands and CR0.EM are; with
CR0.TS clear none is. #NM has no error code. -/
def Obligations.TaskSwitchedIsNm : Prop :=
  (∀ (i : Instr) (s : State), s.fp16Usable = true → s.lengthUd i.ops.src3 = false →
    s.sys.cr0.getLsbD 3 = true → exec i s = .fault (.nm s)) ∧
  (∀ (i : Instr) (s u : State), exec i s = .fault (.nm u) → s.sys.cr0.getLsbD 3 = true) ∧
  Exception.nm.errorCode = none

/-- R59, R205 (a): an address is canonical if its bits 63:47, or 63:56 under `VA_BITS` = 57, are all equal, which is
checked in `Mode64` only; there a memory operand with a byte at a non-canonical address is #SS(0) through SS and
#GP(0) otherwise. -/
def Obligations.NonCanonicalOperand : Prop :=
  (∀ a : Addr,
    (canonical .va48 a = true ↔ a.extractLsb' 47 17 = 0 ∨ a.extractLsb' 47 17 = BitVec.allOnes 17) ∧
    (canonical .va57 a = true ↔ a.extractLsb' 56 8 = 0 ∨ a.extractLsb' 56 8 = BitVec.allOnes 8) ∧
    ∀ s : State, (s.cfg.mode = .mode64 → s.canonicalAt a = canonical s.cfg.vaBits a) ∧
      (s.cfg.mode = .mode32 → s.canonicalAt a = true)) ∧
  ∀ (i : Instr) (s : State) (ll : BitVec 2) (m : MemOperand),
    s.Enabled → s.lengthUd i.ops.src3 = false → s.maskBit i.ops.mask = true →
    i.ops.src3 = .mem ll m → s.cfg.mode = .mode64 →
    (canonical s.cfg.vaBits (s.linearAddress i.ops m) = false ∨
      canonical s.cfg.vaBits (s.linearAddress i.ops m + 1) = false) →
    (s.segment i.ops m = .ss → exec i s = .fault (.ss s)) ∧
    (s.segment i.ops m ≠ .ss → exec i s = .fault (.gp s))

/-- R58, R206: `Translate` answers the code of the first range of the configuration that holds the address for that
kind of access, and no fault where there is none (log 3). A memory operand that it refuses, with no alignment check,
is #PF with the code it answers and the address of the first byte that failed. -/
def Obligations.OperandPageFault : Prop :=
  (∀ (s : State) (la : Addr) (kind : AccessKind),
    ((∀ q ∈ s.cfg.pageFaults, q.kind = kind → ¬(q.first ≤ la ∧ la ≤ q.last)) →
      s.translate la kind = none) ∧
    (∀ l r l', s.cfg.pageFaults = l ++ r :: l' →
      (∀ q ∈ l, q.kind = kind → ¬(q.first ≤ la ∧ la ≤ q.last)) →
      r.kind = kind → r.first ≤ la → la ≤ r.last → s.translate la kind = some (.pf r.code la))) ∧
  ∀ (i : Instr) (s : State) (ll : BitVec 2) (m : MemOperand) (code : BitVec 32) (a : Addr),
    s.Enabled → s.lengthUd i.ops.src3 = false → s.maskBit i.ops.mask = true →
    i.ops.src3 = .mem ll m →
    s.canonicalAt (s.linearAddress i.ops m) = true → s.canonicalAt (s.linearAddress i.ops m + 1) = true →
    (s.acActive = true → (s.linearAddress i.ops m).toNat % 2 = 0) →
    (s.translate (s.linearAddress i.ops m) .read = some (.pf code a) →
      a = s.linearAddress i.ops m ∧ exec i s = .fault (.pf code a s)) ∧
    (s.translate (s.linearAddress i.ops m) .read = none →
      s.translate (s.linearAddress i.ops m + 1) .read = some (.pf code a) →
      a = s.linearAddress i.ops m + 1 ∧ exec i s = .fault (.pf code a s))

/-- R207: alignment checking is active exactly with CR0.AM, EFLAGS.AC and privilege level 3; then a memory operand
at an odd address is #AC(0) if no other fault of the access applies. Otherwise, and at an even address, there is
no #AC, and no fetch raises it. -/
def Obligations.AlignmentCheck : Prop :=
  ∀ (i : Instr) (s : State),
    (s.acActive = true ↔
      s.sys.cr0.getLsbD 18 = true ∧ s.sys.rflags.getLsbD 18 = true ∧ s.sys.cpl = 3) ∧
    (∀ ll m, s.Enabled → s.lengthUd i.ops.src3 = false → s.maskBit i.ops.mask = true →
      i.ops.src3 = .mem ll m → s.acActive = true → (s.linearAddress i.ops m).toNat % 2 = 1 →
      s.canonicalAt (s.linearAddress i.ops m) = true →
      s.canonicalAt (s.linearAddress i.ops m + 1) = true →
      s.translate (s.linearAddress i.ops m) .read = none →
      s.translate (s.linearAddress i.ops m + 1) .read = none →
      exec i s = .fault (.ac s)) ∧
    (∀ φ, exec i s = .fault φ → φ.exception = .ac →
      s.acActive = true ∧
        ∃ ll m, i.ops.src3 = .mem ll m ∧ (s.linearAddress i.ops m).toNat % 2 = 1) ∧
    (∀ n, s.fetchByte n ≠ .error .ac) ∧ Exception.ac.errorCode = some 0

/-- R210 step 6: for a memory operand that is misaligned and refused by `Translate`, `AC_PF_ORDER` decides; where
it is `either`, the outcome is one of the two, as the model's free choice says (log 5). -/
def Obligations.AlignmentBesidePageFault : Prop :=
  ∀ (i : Instr) (s : State) (ll : BitVec 2) (m : MemOperand) (code : BitVec 32) (a : Addr),
    s.Enabled → s.lengthUd i.ops.src3 = false → s.maskBit i.ops.mask = true →
    i.ops.src3 = .mem ll m →
    s.canonicalAt (s.linearAddress i.ops m) = true → s.canonicalAt (s.linearAddress i.ops m + 1) = true →
    s.acActive = true → (s.linearAddress i.ops m).toNat % 2 = 1 →
    (s.translate (s.linearAddress i.ops m) .read = some (.pf code a) ∨
      (s.translate (s.linearAddress i.ops m) .read = none ∧
        s.translate (s.linearAddress i.ops m + 1) .read = some (.pf code a))) →
    (s.cfg.acPfOrder = .acFirst → exec i s = .fault (.ac s)) ∧
    (s.cfg.acPfOrder = .pfFirst → exec i s = .fault (.pf code a s)) ∧
    (s.cfg.acPfOrder = .either →
      exec i s = .fault (.ac s) ∨ exec i s = .fault (.pf code a s))

/-- R208: where `FMS16` traps, the flags are OR-ed into `MXCSR`, nothing else is written, and #XM is raised, or
#UD where CR4.OSXMMEXCPT is 0; and #XM arises only with the mask bit 1 or no writemask, no embedded rounding and
a signalled exception that is unmasked. #XM has no error code. -/
def Obligations.UnmaskedFloatingPointException : Prop :=
  (∀ (i : Instr) (s : State) (b : Half) (f : FpFlags),
    s.Enabled → s.lengthUd i.ops.src3 = false → s.maskBit i.ops.mask = true →
    s.readSrc3 i.ops = .ok b → s.outcome i b = .trap f →
    ∃ u : State, exec i s = .fault (if s.sys.cr4.getLsbD 10 then .xm u else .ud u) ∧
      u = { s with mxcsr := u.mxcsr } ∧
      u.mxcsr.extractLsb' 0 6 = s.mxcsr.extractLsb' 0 6 ||| f.toBits ∧
      u.mxcsr.extractLsb' 6 26 = s.mxcsr.extractLsb' 6 26) ∧
  (∀ (i : Instr) (s u : State), exec i s = .fault (.xm u) →
    s.maskBit i.ops.mask = true ∧ (∀ s3 rm, i.ops.src3 ≠ .reg s3 (.embedded rm)) ∧
    ∃ b f, s.readSrc3 i.ops = .ok b ∧ s.outcome i b = .trap f ∧
      ((f.ie = true ∧ s.mxcsr.getLsbD 7 = false) ∨ (f.de = true ∧ s.mxcsr.getLsbD 8 = false) ∨
        (f.oe = true ∧ s.mxcsr.getLsbD 10 = false) ∨ (f.ue = true ∧ s.mxcsr.getLsbD 11 = false) ∨
        (f.pe = true ∧ s.mxcsr.getLsbD 12 = false))) ∧
  Exception.xm.errorCode = none

/-! ## The arithmetic -/

/-- R157: a NaN operand. -/
def Obligations.NanOperand : Prop :=
  ∀ (e : FmsEnv) (neg : Bool) (x y z : Half), e.params = FpParams.thisHardware →
    (isNaN x = true ∨ isNaN y = true ∨ isNaN z = true) →
    ∃ n : Half,
      ((isNaN x = true ∧ n = x) ∨ (isNaN x = false ∧ isNaN y = true ∧ n = y) ∨
        (isNaN x = false ∧ isNaN y = false ∧ n = z)) ∧
      (quiet n).getLsbD 15 = n.getLsbD 15 ∧ (quiet n).extractLsb' 0 9 = n.extractLsb' 0 9 ∧
      isQNaN (quiet n) = true ∧
      (e.sae = true → fms16 e neg x y z = .result (quiet n) {}) ∧
      (e.sae = false →
        ((isSNaN x = true ∨ isSNaN y = true ∨ isSNaN z = true) →
          fms16 e neg x y z =
            if e.masks.im then .result (quiet n) { ie := true } else .trap { ie := true }) ∧
        (isSNaN x = false → isSNaN y = false → isSNaN z = false →
          fms16 e neg x y z = .result (quiet n) {}))

/-- R158: 0 × ∞ and ∞ − ∞, with no NaN operand; and 0 × ∞ with a QNaN subtrahend is no invalid operation. -/
def Obligations.InvalidOperation : Prop :=
  (∀ (e : FmsEnv) (neg : Bool) (x y z : Half), e.params = FpParams.thisHardware →
    isNaN x = false → isNaN y = false → isNaN z = false →
    ((isZero x = true ∧ isInf y = true) ∨ (isInf x = true ∧ isZero y = true) ∨
      ((isInf x = true ∨ isInf y = true) ∧ isInf z = true ∧
        (x.getLsbD 15 ^^ y.getLsbD 15 ^^ neg) ≠ !z.getLsbD 15)) →
    (e.sae = true → fms16 e neg x y z = .result 0xFE00 {}) ∧
    (e.sae = false → fms16 e neg x y z =
      if e.masks.im then .result 0xFE00 { ie := true } else .trap { ie := true })) ∧
  (∀ (e : FmsEnv) (neg : Bool) (x y z : Half), e.params = FpParams.thisHardware →
    ((isZero x = true ∧ isInf y = true) ∨ (isInf x = true ∧ isZero y = true)) → isQNaN z = true →
    fms16 e neg x y z = .result z {})

/-- R159, R160: a valid operation with an infinite operand. An unmasked denormal operand traps with DE alone; otherwise
the outcome is a result, whatever the other masks are: the infinity of the product's sign, or that opposite to the
subtrahend, and the only flag is that of a denormal operand. -/
def Obligations.InfiniteOperand : Prop :=
  ∀ (e : FmsEnv) (neg : Bool) (x y z : Half), e.params = FpParams.thisHardware →
    isNaN x = false → isNaN y = false → isNaN z = false →
    ¬((isZero x = true ∧ isInf y = true) ∨ (isInf x = true ∧ isZero y = true)) →
    ¬((isInf x = true ∨ isInf y = true) ∧ isInf z = true ∧
      (x.getLsbD 15 ^^ y.getLsbD 15 ^^ neg) ≠ !z.getLsbD 15) →
    (isInf x = true ∨ isInf y = true ∨ isInf z = true) →
    (e.sae = false → e.masks.dm = false → (isDen x = true ∨ isDen y = true ∨ isDen z = true) →
      fms16 e neg x y z = .trap { de := true }) ∧
    ((e.sae = true ∨ e.masks.dm = true ∨ (isDen x = false ∧ isDen y = false ∧ isDen z = false)) →
      ((isInf x = true ∨ isInf y = true) →
        fms16 e neg x y z = .result (if x.getLsbD 15 ^^ y.getLsbD 15 ^^ neg then 0xFC00 else 0x7C00)
          { de := !e.sae && (isDen x || isDen y || isDen z) }) ∧
      (isInf x = false → isInf y = false →
        fms16 e neg x y z = .result (if z.getLsbD 15 then 0x7C00 else 0xFC00)
          { de := !e.sae && (isDen x || isDen y || isDen z) }))

/-- R159, R161: an exact zero. An unmasked denormal operand traps with DE alone; otherwise the outcome is a result,
whatever the other masks are: a zero whose sign is that of two zero terms of one sign, and else negative under `RD`
only; the only flag is that of a denormal operand. -/
def Obligations.ExactZero : Prop :=
  ∀ (e : FmsEnv) (neg : Bool) (x y z : Half), e.params = FpParams.thisHardware →
    isFinite x = true → isFinite y = true → isFinite z = true → exactReal neg x y z = 0 →
    (e.sae = false → e.masks.dm = false → (isDen x = true ∨ isDen y = true ∨ isDen z = true) →
      fms16 e neg x y z = .trap { de := true }) ∧
    ((e.sae = true ∨ e.masks.dm = true ∨ (isDen x = false ∧ isDen y = false ∧ isDen z = false)) →
      ((((isZero x = true ∨ isZero y = true) ∧ isZero z = true) ∧
          (x.getLsbD 15 ^^ y.getLsbD 15 ^^ neg) = !z.getLsbD 15) →
        fms16 e neg x y z = .result (if !z.getLsbD 15 then 0x8000 else 0x0000)
          { de := !e.sae && (isDen x || isDen y || isDen z) }) ∧
      (¬(((isZero x = true ∨ isZero y = true) ∧ isZero z = true) ∧
          (x.getLsbD 15 ^^ y.getLsbD 15 ^^ neg) = !z.getLsbD 15) →
        fms16 e neg x y z = .result (if e.rm = .rd then 0x8000 else 0x0000)
          { de := !e.sae && (isDen x || isDen y || isDen z) }))

/-- R155, R162 to R167 under `RN`: a result is the finite datum nearest to the exact real, one of two equally near
being the one of even significand, or the infinity of its sign from 65520 on. -/
def Obligations.RoundToNearest : Prop :=
  ∀ (e : FmsEnv) (neg : Bool) (x y z r : Half) (f : FpFlags),
    e.params.honoursDazFtz = false → e.rm = .rn →
    isFinite x = true → isFinite y = true → isFinite z = true →
    fms16 e neg x y z = .result r f →
    (|exactReal neg x y z| < 65520 →
      isFinite r = true ∧
      (∀ h, isFinite h = true → |val r - exactReal neg x y z| ≤ |val h - exactReal neg x y z|) ∧
      (∀ h, isFinite h = true → val h ≠ val r →
        |val h - exactReal neg x y z| = |val r - exactReal neg x y z| → r.getLsbD 0 = false)) ∧
    (65520 ≤ exactReal neg x y z → r = 0x7C00) ∧
    (exactReal neg x y z ≤ -65520 → r = 0xFC00) ∧
    (exactReal neg x y z ≠ 0 → (r.getLsbD 15 = true ↔ exactReal neg x y z < 0))

/-- R155, R162 to R167 under the directed modes: a result is the greatest datum not above the exact real under
`RD`, the least not below it under `RU`, and under `RZ` the one of the two that is nearer to zero. -/
def Obligations.DirectedRounding : Prop :=
  ∀ (e : FmsEnv) (neg : Bool) (x y z r : Half) (f : FpFlags),
    e.params.honoursDazFtz = false →
    isFinite x = true → isFinite y = true → isFinite z = true →
    fms16 e neg x y z = .result r f →
    (((e.rm = .rd ∧ -65504 ≤ exactReal neg x y z) ∨ (e.rm = .rz ∧ 0 ≤ exactReal neg x y z)) →
      isFinite r = true ∧ val r ≤ exactReal neg x y z ∧
        ∀ h, isFinite h = true → val h ≤ exactReal neg x y z → val h ≤ val r) ∧
    (((e.rm = .ru ∧ exactReal neg x y z ≤ 65504) ∨ (e.rm = .rz ∧ exactReal neg x y z ≤ 0)) →
      isFinite r = true ∧ exactReal neg x y z ≤ val r ∧
        ∀ h, isFinite h = true → exactReal neg x y z ≤ val h → val r ≤ val h) ∧
    (e.rm = .rd → exactReal neg x y z < -65504 → r = 0xFC00) ∧
    (e.rm = .ru → 65504 < exactReal neg x y z → r = 0x7C00) ∧
    (exactReal neg x y z ≠ 0 → (r.getLsbD 15 = true ↔ exactReal neg x y z < 0))

/-- R159, R163 to R166, R209: when each flag is signalled for finite operands, without `sae`. An unmasked denormal
traps with DE alone. Otherwise, for a non-zero exact real, OE, UE and DE are as their rules say, and PE is: of a
result, that it is not the exact real; of a trap by an unmasked OE, that the rounding with unbounded exponent is
inexact; of a trap by an unmasked UE, that the denormalised rounding is inexact; of any other trap, set. -/
def Obligations.FlagsOfFiniteOperands : Prop :=
  ∀ (e : FmsEnv) (neg : Bool) (x y z : Half),
    e.params.honoursDazFtz = false → e.sae = false →
    isFinite x = true → isFinite y = true → isFinite z = true →
    (e.masks.dm = false → (isDen x = true ∨ isDen y = true ∨ isDen z = true) →
      fms16 e neg x y z = .trap { de := true }) ∧
    (exactReal neg x y z ≠ 0 →
      (e.masks.dm = true ∨ (isDen x = false ∧ isDen y = false ∧ isDen z = false)) →
      (fms16 e neg x y z).flags.ie = false ∧
      (fms16 e neg x y z).flags.de = (isDen x || isDen y || isDen z) ∧
      ((fms16 e neg x y z).flags.oe = true ↔ Overflows e.rm (exactReal neg x y z)) ∧
      ((fms16 e neg x y z).flags.ue = true ↔
        IsTiny e.rm (exactReal neg x y z) ∧
          (e.masks.um = false ∨ ¬ IsDenormalMultiple (exactReal neg x y z))) ∧
      (∀ r f, fms16 e neg x y z = .result r f →
        (f.pe = true ↔ ¬(isFinite r = true ∧ val r = exactReal neg x y z))) ∧
      (∀ f, fms16 e neg x y z = .trap f →
        (f.oe = true → e.masks.om = false →
          (f.pe = true ↔ ¬ FitsElevenBits (exactReal neg x y z))) ∧
        (f.ue = true → e.masks.um = false →
          (f.pe = true ↔ ¬ IsDenormalMultiple (exactReal neg x y z))) ∧
        ((f.oe = true → e.masks.om = true) → (f.ue = true → e.masks.um = true) →
          f.pe = true ∧ e.masks.pm = false)))

/-- R166: a trap arises exactly when a flag is signalled whose mask bit is 0 and `sae` is false. Where the parameters
are not the spec's values, the signalled flags are those of log 19 and 20. -/
def Obligations.TrapIffUnmasked : Prop :=
  ∀ (e : FmsEnv) (neg : Bool) (x y z : Half),
    let f := (fms16 e neg x y z).flags
    ((∃ g, fms16 e neg x y z = .trap g) ↔
      e.sae = false ∧
        ((f.ie = true ∧ e.masks.im = false) ∨ (f.de = true ∧ e.masks.dm = false) ∨
          (f.oe = true ∧ e.masks.om = false) ∨ (f.ue = true ∧ e.masks.um = false) ∨
          (f.pe = true ∧ e.masks.pm = false)))

/-- R169: which flags are never set together. -/
def Obligations.FlagsNeverTogether : Prop :=
  ∀ (e : FmsEnv) (neg : Bool) (x y z : Half), e.params = FpParams.thisHardware →
    let f := (fms16 e neg x y z).flags
    ¬(f.ie = true ∧ f.de = true) ∧
    (f.ie = true → f.oe = false ∧ f.ue = false ∧ f.pe = false) ∧
    ¬(f.oe = true ∧ f.ue = true)

/-- R173 (2) to (4): a result is never an SNaN, with all exceptions masked there is no trap, and under `sae` there
is a result and no flag. Where the parameters are not the spec's values, the results are those of log 19 and
20. -/
def Obligations.ResultIsNeverSignalling : Prop :=
  ∀ (e : FmsEnv) (neg : Bool) (x y z : Half),
    (∀ r f, fms16 e neg x y z = .result r f → isSNaN r = false) ∧
    (e.masks = FpMasks.all → ∃ r f, fms16 e neg x y z = .result r f) ∧
    (e.sae = true → ∃ r, fms16 e neg x y z = .result r {})

/-- R173 (5): for finite operands, an exact real that is representable and not zero is the result, and the only
flag is that of a denormal operand. -/
def Obligations.RepresentableIsExact : Prop :=
  ∀ (e : FmsEnv) (neg : Bool) (x y z h : Half), e.params.honoursDazFtz = false →
    isFinite x = true → isFinite y = true → isFinite z = true → isFinite h = true →
    val h = exactReal neg x y z → exactReal neg x y z ≠ 0 →
    (∀ r f, fms16 e neg x y z = .result r f →
      r = h ∧ (f = {} ∨ f = { de := true })) ∧
    (e.masks = FpMasks.all → ∃ f, fms16 e neg x y z = .result h f)

/-- R173 (6), (7): the factors commute unless both are NaNs, and negating the product is negating a factor that is
not a NaN. -/
def Obligations.ProductSymmetries : Prop :=
  ∀ (e : FmsEnv) (x y z : Half), e.params = FpParams.thisHardware →
    (∀ neg, ¬(isNaN x = true ∧ isNaN y = true) → fms16 e neg x y z = fms16 e neg y x z) ∧
    (isNaN x = false → fms16 e true x y z = fms16 e false (x ^^^ 0x8000) y z)

/-! ## The parameters of the registers -/

/-- R7, R13, R21, R23: the values of `MAXVL`, `NVREG` and `KWIDTH`; a register has no bit at or above its width; at
the values of R7 the whole storage is read, and what is written is read. That the storage has 512 and 64 bits, and
which other widths there are, is log 25. -/
def Obligations.RegisterParameters : Prop :=
  (State.reset.cfg.maxVL.toNat = 512 ∧ State.reset.cfg.kWidth.toNat = 64 ∧
    { State.reset.cfg with mode := .mode64 }.nVReg = 32 ∧
    { State.reset.cfg with mode := .mode32 }.nVReg = 8) ∧
  ∀ s : State,
    (∀ j b, s.cfg.maxVL.toNat ≤ b → (s.readZmm j).getLsbD b = false) ∧
    (∀ j b, s.cfg.kWidth.toNat ≤ b → (s.readK j).getLsbD b = false) ∧
    (s.cfg.maxVL.toNat = 512 → ∀ j, s.readZmm j = s.zmm[j.toNat]'(j.isLt)) ∧
    (s.cfg.kWidth.toNat = 64 → ∀ j, s.readK j = s.k[j.toNat]'(j.isLt)) ∧
    (∀ j v b, b < s.cfg.maxVL.toNat → ((s.writeZmm j v).readZmm j).getLsbD b = v.getLsbD b)
end

