-- ==== Sys2Proof/Laws/Memory.lean ====
section
/-! SUPPORT. The laws of memory: a read after a write, and that every operation keeps the canonical form. -/

namespace Sys2Proof.Machine

@[simp] theorem Memory.read_nil (a : Nat) : Memory.read [] a = unlistedByte := rfl

theorem Memory.read_cons_cell (b : Nat) (w : Byte) (m : Memory) (a : Nat) :
    Memory.read ((b, w) :: m) a = if a = b then w else Memory.read m a := rfl

/-- A list whose addresses are all above `a` reads as unlisted at `a`. -/
theorem Memory.read_of_forall_lt (m : Memory) (a : Nat) (h : ∀ c ∈ m, a < c.1) :
    Memory.read m a = unlistedByte := by
  induction m with
  | nil => rfl
  | cons c rest ih =>
    obtain ⟨b, w⟩ := c
    have hb : a < b := h (b, w) (by simp)
    rw [Memory.read_cons_cell, if_neg (by omega)]
    exact ih fun c hc => h c (by simp [hc])

theorem Memory.read_cons_same (a : Nat) (v : Byte) (m : Memory) (h : ∀ c ∈ m, a < c.1) :
    Memory.read (Memory.cons a v m) a = v := by
  unfold Memory.cons
  split
  · rw [Memory.read_of_forall_lt m a h]; simp_all
  · simp [Memory.read_cons_cell]

theorem Memory.read_cons_other {a b : Nat} (v : Byte) (m : Memory) (h : b ≠ a) :
    Memory.read (Memory.cons a v m) b = Memory.read m b := by
  unfold Memory.cons
  split
  · rfl
  · simp [Memory.read_cons_cell, h]

/-- The cells after the first of a canonical memory are canonical and above it. -/
theorem Memory.wf_tail {b : Nat} {w : Byte} {m : Memory} (h : Memory.wf ((b, w) :: m)) :
    Memory.wf m ∧ (∀ c ∈ m, b < c.1) ∧ w ≠ unlistedByte ∧ b < 2 ^ 64 := by
  obtain ⟨hs, hc⟩ := h
  rw [List.map_cons, List.pairwise_cons] at hs
  refine ⟨⟨hs.2, fun c hm => hc c (by simp [hm])⟩, fun c hm => hs.1 c.1 ?_, hc (b, w) (by simp)⟩
  exact List.mem_map_of_mem hm

theorem Memory.wf_cons {a : Nat} (v : Byte) {m : Memory} (hm : Memory.wf m) (ha : a < 2 ^ 64)
    (hl : ∀ c ∈ m, a < c.1) : Memory.wf (Memory.cons a v m) := by
  unfold Memory.cons
  split
  · exact hm
  · next hv =>
    refine ⟨?_, ?_⟩
    · rw [List.map_cons, List.pairwise_cons]
      refine ⟨fun x hx => ?_, hm.1⟩
      obtain ⟨c, hc, rfl⟩ := List.mem_map.1 hx
      exact hl c hc
    · intro c hc
      rcases List.mem_cons.1 hc with rfl | hc
      · exact ⟨hv, ha⟩
      · exact hm.2 c hc

/-- Every address of a memory after a write is one of before, or the one written. -/
theorem Memory.mem_write {m : Memory} {a : Nat} {v : Byte} {c : Host.Cell}
    (h : c ∈ Memory.write m a v) : c ∈ m ∨ c.1 = a := by
  have hcons : ∀ r : Memory, c ∈ Memory.cons a v r → c ∈ r ∨ c.1 = a := by
    intro r hr
    unfold Memory.cons at hr
    split at hr
    · exact .inl hr
    · rcases List.mem_cons.1 hr with rfl | hr
      · exact .inr rfl
      · exact .inl hr
  induction m with
  | nil => simpa using hcons [] h
  | cons d rest ih =>
    obtain ⟨b, w⟩ := d
    simp only [Memory.write] at h
    split at h
    · exact hcons _ h
    · split at h
      · exact (hcons _ h).imp_left fun hr => by simp [hr]
      · rcases List.mem_cons.1 h with rfl | h
        · exact .inl (by simp)
        · exact (ih h).imp_left fun hr => by simp [hr]

/-- A write keeps the canonical form. -/
theorem Memory.write_wf {m : Memory} (hm : Memory.wf m) {a : Nat} (ha : a < 2 ^ 64) (v : Byte) :
    Memory.wf (Memory.write m a v) := by
  induction m with
  | nil => exact Memory.wf_cons v hm ha (by simp)
  | cons d rest ih =>
    obtain ⟨b, w⟩ := d
    obtain ⟨hr, hl, hw, hb⟩ := Memory.wf_tail hm
    simp only [Memory.write]
    split
    · next hab =>
      refine Memory.wf_cons v hm ha fun c hc => ?_
      rcases List.mem_cons.1 hc with rfl | hc
      · exact hab
      · exact Nat.lt_trans hab (hl c hc)
    · split
      · next hab => exact Memory.wf_cons v hr ha (hab ▸ hl)
      · next h1 h2 =>
        have hlt : b < a := by omega
        refine ⟨?_, ?_⟩
        · rw [List.map_cons, List.pairwise_cons]
          refine ⟨fun x hx => ?_, (ih hr).1⟩
          obtain ⟨c, hc, rfl⟩ := List.mem_map.1 hx
          rcases Memory.mem_write hc with h | h
          · exact hl c h
          · exact h ▸ hlt
        · intro c hc
          rcases List.mem_cons.1 hc with rfl | hc
          · exact ⟨hw, hb⟩
          · exact (ih hr).2 c hc

/-- Storing bytes keeps the canonical form. -/
theorem Memory.writeBytes_wf (vs : List Byte) {m : Memory} (hm : Memory.wf m) (a : Addr) :
    Memory.wf (Memory.writeBytes m a vs) := by
  induction vs generalizing m a with
  | nil => exact hm
  | cons v vs ih => exact ih (Memory.write_wf hm a.isLt v) (a + 1)

/-- A read of the byte just written. -/
theorem Memory.read_write_same {m : Memory} (hm : Memory.wf m) (a : Nat) (v : Byte) :
    Memory.read (Memory.write m a v) a = v := by
  induction m with
  | nil => exact Memory.read_cons_same a v [] (by simp)
  | cons d rest ih =>
    obtain ⟨b, w⟩ := d
    obtain ⟨hr, hl, -, -⟩ := Memory.wf_tail hm
    simp only [Memory.write]
    split
    · next hab =>
      refine Memory.read_cons_same a v _ fun c hc => ?_
      rcases List.mem_cons.1 hc with rfl | hc
      · exact hab
      · exact Nat.lt_trans hab (hl c hc)
    · split
      · next hab => exact Memory.read_cons_same a v rest (hab ▸ hl)
      · next h1 h2 => rw [Memory.read_cons_cell, if_neg h2]; exact ih hr

/-- A write leaves every other byte alone. -/
theorem Memory.read_write_other (m : Memory) {a b : Nat} (v : Byte) (h : b ≠ a) :
    Memory.read (Memory.write m a v) b = Memory.read m b := by
  induction m with
  | nil => exact Memory.read_cons_other v [] h
  | cons d rest ih =>
    obtain ⟨c, w⟩ := d
    simp only [Memory.write]
    split
    · exact Memory.read_cons_other v _ h
    · split
      · next hac =>
        rw [Memory.read_cons_other v rest h, Memory.read_cons_cell, if_neg (hac ▸ h)]
      · rw [Memory.read_cons_cell, Memory.read_cons_cell, ih]

/-- The reset state's memory is in canonical form. -/
theorem State.reset_mem_wf : Memory.wf State.reset.mem := by
  simp [State.reset, Memory.wf]

end Sys2Proof.Machine
end

