-- ==== Sys2Proof/Laws/State.lean ====
section
/-! SUPPORT. One lemma per field per update of the state, so that no later proof unfolds a record update. -/

namespace Sys2Proof.Machine

@[simp] theorem State.writeZmm_k (s : State) (i v) : (s.writeZmm i v).k = s.k := rfl
@[simp] theorem State.writeZmm_gpr (s : State) (i v) : (s.writeZmm i v).gpr = s.gpr := rfl
@[simp] theorem State.writeZmm_rip (s : State) (i v) : (s.writeZmm i v).rip = s.rip := rfl
@[simp] theorem State.writeZmm_mxcsr (s : State) (i v) : (s.writeZmm i v).mxcsr = s.mxcsr := rfl
@[simp] theorem State.writeZmm_mem (s : State) (i v) : (s.writeZmm i v).mem = s.mem := rfl
@[simp] theorem State.writeZmm_sys (s : State) (i v) : (s.writeZmm i v).sys = s.sys := rfl
@[simp] theorem State.writeZmm_cfg (s : State) (i v) : (s.writeZmm i v).cfg = s.cfg := rfl
@[simp] theorem State.writeZmm_draws (s : State) (i v) : (s.writeZmm i v).draws = s.draws := rfl

@[simp] theorem State.signal_zmm (s : State) (f) : (s.signal f).zmm = s.zmm := rfl
@[simp] theorem State.signal_k (s : State) (f) : (s.signal f).k = s.k := rfl
@[simp] theorem State.signal_gpr (s : State) (f) : (s.signal f).gpr = s.gpr := rfl
@[simp] theorem State.signal_rip (s : State) (f) : (s.signal f).rip = s.rip := rfl
@[simp] theorem State.signal_mxcsr (s : State) (f) : (s.signal f).mxcsr = orFlags s.mxcsr f := rfl
@[simp] theorem State.signal_mem (s : State) (f) : (s.signal f).mem = s.mem := rfl
@[simp] theorem State.signal_sys (s : State) (f) : (s.signal f).sys = s.sys := rfl
@[simp] theorem State.signal_cfg (s : State) (f) : (s.signal f).cfg = s.cfg := rfl
@[simp] theorem State.signal_draws (s : State) (f) : (s.signal f).draws = s.draws := rfl

@[simp] theorem State.setRip_zmm (s : State) (v) : (s.setRip v).zmm = s.zmm := rfl
@[simp] theorem State.setRip_k (s : State) (v) : (s.setRip v).k = s.k := rfl
@[simp] theorem State.setRip_gpr (s : State) (v) : (s.setRip v).gpr = s.gpr := rfl
@[simp] theorem State.setRip_rip (s : State) (v) : (s.setRip v).rip = v := rfl
@[simp] theorem State.setRip_mxcsr (s : State) (v) : (s.setRip v).mxcsr = s.mxcsr := rfl
@[simp] theorem State.setRip_mem (s : State) (v) : (s.setRip v).mem = s.mem := rfl
@[simp] theorem State.setRip_sys (s : State) (v) : (s.setRip v).sys = s.sys := rfl
@[simp] theorem State.setRip_cfg (s : State) (v) : (s.setRip v).cfg = s.cfg := rfl
@[simp] theorem State.setRip_draws (s : State) (v) : (s.setRip v).draws = s.draws := rfl

@[simp] theorem State.setDraws_zmm (s : State) (n) : (s.setDraws n).zmm = s.zmm := rfl
@[simp] theorem State.setDraws_k (s : State) (n) : (s.setDraws n).k = s.k := rfl
@[simp] theorem State.setDraws_gpr (s : State) (n) : (s.setDraws n).gpr = s.gpr := rfl
@[simp] theorem State.setDraws_rip (s : State) (n) : (s.setDraws n).rip = s.rip := rfl
@[simp] theorem State.setDraws_mxcsr (s : State) (n) : (s.setDraws n).mxcsr = s.mxcsr := rfl
@[simp] theorem State.setDraws_mem (s : State) (n) : (s.setDraws n).mem = s.mem := rfl
@[simp] theorem State.setDraws_sys (s : State) (n) : (s.setDraws n).sys = s.sys := rfl
@[simp] theorem State.setDraws_cfg (s : State) (n) : (s.setDraws n).cfg = s.cfg := rfl
@[simp] theorem State.setDraws_draws (s : State) (n) : (s.setDraws n).draws = n := rfl

@[simp] theorem State.boot_zmm (s : State) : s.boot.zmm = s.zmm := rfl
@[simp] theorem State.boot_k (s : State) : s.boot.k = s.k := rfl
@[simp] theorem State.boot_gpr (s : State) : s.boot.gpr = s.gpr := rfl
@[simp] theorem State.boot_rip (s : State) : s.boot.rip = s.rip := rfl
@[simp] theorem State.boot_mxcsr (s : State) : s.boot.mxcsr = s.mxcsr := rfl
@[simp] theorem State.boot_mem (s : State) : s.boot.mem = s.mem := rfl
@[simp] theorem State.boot_sys (s : State) : s.boot.sys = s.sys.boot := rfl
@[simp] theorem State.boot_cfg (s : State) : s.boot.cfg = s.cfg := rfl
@[simp] theorem State.boot_draws (s : State) : s.boot.draws = s.draws := rfl

@[simp] theorem State.loadAtRip_zmm (s : State) (l) : (s.loadAtRip l).zmm = s.zmm := rfl
@[simp] theorem State.loadAtRip_k (s : State) (l) : (s.loadAtRip l).k = s.k := rfl
@[simp] theorem State.loadAtRip_gpr (s : State) (l) : (s.loadAtRip l).gpr = s.gpr := rfl
@[simp] theorem State.loadAtRip_rip (s : State) (l) : (s.loadAtRip l).rip = s.rip := rfl
@[simp] theorem State.loadAtRip_mxcsr (s : State) (l) : (s.loadAtRip l).mxcsr = s.mxcsr := rfl
@[simp] theorem State.loadAtRip_mem (s : State) (l) :
    (s.loadAtRip l).mem = Memory.writeBytes s.mem s.rip l := rfl
@[simp] theorem State.loadAtRip_sys (s : State) (l) : (s.loadAtRip l).sys = s.sys := rfl
@[simp] theorem State.loadAtRip_cfg (s : State) (l) : (s.loadAtRip l).cfg = s.cfg := rfl
@[simp] theorem State.loadAtRip_draws (s : State) (l) : (s.loadAtRip l).draws = s.draws := rfl

/-! ## Reading a vector register after an update -/

theorem vectorWidth_bounds (w : VectorWidth) : 128 ≤ w.toNat ∧ w.toNat ≤ 512 := by
  cases w <;> decide

theorem maskWidth_bounds (w : MaskWidth) : 8 ≤ w.toNat ∧ w.toNat ≤ 64 := by
  cases w <;> decide

@[simp] theorem getLsbD_clipZmm (w : VectorWidth) (v : VecReg) (b : Nat) :
    (clipZmm w v).getLsbD b = (decide (b < w.toNat) && v.getLsbD b) := by
  have hw := vectorWidth_bounds w
  by_cases h : b < w.toNat <;> simp [clipZmm, h]
  omega

@[simp] theorem getLsbD_clipK (w : MaskWidth) (v : MaskReg) (b : Nat) :
    (clipK w v).getLsbD b = (decide (b < w.toNat) && v.getLsbD b) := by
  have hw := maskWidth_bounds w
  by_cases h : b < w.toNat <;> simp [clipK, h]
  omega

@[simp] theorem clipZmm_clipZmm (w : VectorWidth) (v : VecReg) : clipZmm w (clipZmm w v) = clipZmm w v := by
  apply BitVec.eq_of_getLsbD_eq
  intro b _
  simp

@[simp] theorem clipZmm_w512 (v : VecReg) : clipZmm .w512 v = v := by
  simp [clipZmm, VectorWidth.toNat]

@[simp] theorem clipK_w64 (v : MaskReg) : clipK .w64 v = v := by
  simp [clipK, MaskWidth.toNat]

/-- What is written exists only below `MAXVL` (R13). -/
@[simp] theorem State.readZmm_writeZmm_same (s : State) (i : BitVec 5) (v : VecReg) :
    (s.writeZmm i v).readZmm i = clipZmm s.cfg.maxVL v := by
  simp [State.readZmm, State.writeZmm]

theorem State.readZmm_writeZmm_other (s : State) {i j : BitVec 5} (v : VecReg) (h : j ≠ i) :
    (s.writeZmm i v).readZmm j = s.readZmm j := by
  have : i.toNat ≠ j.toNat := fun e => h (BitVec.eq_of_toNat_eq e.symm)
  simp [State.readZmm, State.writeZmm, this]

@[simp] theorem State.readZmm_signal (s : State) (f j) : (s.signal f).readZmm j = s.readZmm j := rfl
@[simp] theorem State.readZmm_setRip (s : State) (v j) : (s.setRip v).readZmm j = s.readZmm j := rfl
@[simp] theorem State.readZmm_setDraws (s : State) (n j) : (s.setDraws n).readZmm j = s.readZmm j := rfl

/-! ## The value of the destination (R115) -/

/-- A bit of the destination: below 16 from the new element, below 128 kept, above zero. -/
theorem getLsbD_destValue (w : VectorWidth) (old : VecReg) (low : Half) (b : Nat) :
    (destValue w old low).getLsbD b =
      if b < 16 then low.getLsbD b else (decide (b < 128) && old.getLsbD b) := by
  unfold destValue
  rw [BitVec.getLsbD_setWidth, BitVec.getLsbD_setWidth, BitVec.getLsbD_append, BitVec.getLsbD_extractLsb']
  have hw := vectorWidth_bounds w
  by_cases h : b < 16
  · simp [h, show b < 512 by omega, show b < w.toNat by omega]
  · by_cases h2 : b < 128
    · simp [h, h2, show b < 512 by omega, show b < w.toNat by omega, show b - 16 < 112 by omega,
        show 16 + (b - 16) = b by omega]
    · simp [h, h2, show ¬ b - 16 < 112 by omega]

@[simp] theorem clipZmm_destValue (w : VectorWidth) (old : VecReg) (low : Half) :
    clipZmm w (destValue w old low) = destValue w old low := by
  have hw := vectorWidth_bounds w
  apply BitVec.eq_of_getLsbD_eq
  intro b _
  rw [getLsbD_clipZmm, getLsbD_destValue]
  by_cases h : b < 128
  · simp [show b < w.toNat by omega]
  · simp [h, show ¬ b < 16 by omega]

@[simp] theorem destValue_low (w : VectorWidth) (old : VecReg) (low : Half) :
    (destValue w old low).extractLsb' 0 16 = low := by
  apply BitVec.eq_of_getLsbD_eq
  intro i hi
  simp [getLsbD_destValue, hi]

@[simp] theorem destValue_kept (w : VectorWidth) (old : VecReg) (low : Half) :
    (destValue w old low).extractLsb' 16 112 = old.extractLsb' 16 112 := by
  apply BitVec.eq_of_getLsbD_eq
  intro i hi
  simp [getLsbD_destValue, hi, show 16 + i < 128 by omega]

@[simp] theorem destValue_zeroed (w : VectorWidth) (old : VecReg) (low : Half) :
    (destValue w old low).extractLsb' 128 384 = 0 := by
  apply BitVec.eq_of_getLsbD_eq
  intro i hi
  simp [getLsbD_destValue, show ¬ 128 + i < 16 by omega]

/-! ## The commit of a completing instruction -/

@[simp] theorem State.commit_k (s : State) (d low f len) : (s.commit d low f len).k = s.k := rfl
@[simp] theorem State.commit_gpr (s : State) (d low f len) : (s.commit d low f len).gpr = s.gpr := rfl
@[simp] theorem State.commit_mem (s : State) (d low f len) : (s.commit d low f len).mem = s.mem := rfl
@[simp] theorem State.commit_sys (s : State) (d low f len) : (s.commit d low f len).sys = s.sys := rfl
@[simp] theorem State.commit_cfg (s : State) (d low f len) : (s.commit d low f len).cfg = s.cfg := rfl
@[simp] theorem State.commit_draws (s : State) (d low f len) : (s.commit d low f len).draws = s.draws := rfl
@[simp] theorem State.commit_rip (s : State) (d low f len) : (s.commit d low f len).rip = s.nextRip len := rfl
@[simp] theorem State.commit_mxcsr (s : State) (d low f len) :
    (s.commit d low f len).mxcsr = orFlags s.mxcsr f := rfl

@[simp] theorem State.readZmm_commit_same (s : State) (d low f len) :
    (s.commit d low f len).readZmm d = destValue s.cfg.maxVL (s.readZmm d) low := by
  simp [State.commit]

theorem State.readZmm_commit_other (s : State) {d j : BitVec 5} (low f len) (h : j ≠ d) :
    (s.commit d low f len).readZmm j = s.readZmm j := by
  simp [State.commit, State.readZmm_writeZmm_other _ _ h]

end Sys2Proof.Machine
end

