-- ==== Sys2Proof/Laws/Ops.lean ====
section
/-! SUPPORT. What each shared operation can do, said once: the provers cite these instead of unfolding. -/

namespace Sys2Proof.Machine

/-! ## Exceptions -/

@[simp] theorem raise_eq (e : Exception) (s : State) : raise e s = .fault (e.toFault s) := rfl

@[simp] theorem Exception.toFault_exception (e : Exception) (s : State) : (e.toFault s).exception = e := by
  cases e <;> rfl

@[simp] theorem Exception.toFault_final (e : Exception) (s : State) : (e.toFault s).final = s := by
  cases e <;> rfl

theorem raise_ne_next (e : Exception) (s t : State) : raise e s ≠ .next t := by
  simp

/-! ## The flags -/

@[simp] theorem FpFlags.empty_toBits : FpFlags.empty.toBits = 0 := by decide

@[simp] theorem orFlags_empty (m : BitVec 32) : orFlags m FpFlags.empty = m := by
  simp [orFlags]

/-- The bits of `MXCSR` above the flags are not written (R32). -/
theorem orFlags_high (m : BitVec 32) (f : FpFlags) {i : Nat} (h : 6 ≤ i) :
    (orFlags m f).getLsbD i = m.getLsbD i := by
  simp only [orFlags, BitVec.getLsbD_or, BitVec.getLsbD_setWidth]
  rw [BitVec.getLsbD_of_ge f.toBits i h]
  simp

/-- A flag that is set stays set (R32). -/
theorem orFlags_sticky (m : BitVec 32) (f : FpFlags) {i : Nat} (h : m.getLsbD i = true) :
    (orFlags m f).getLsbD i = true := by
  simp [orFlags, h]

/-! ## The checks of a memory operand -/

/-- A memory operand is read only if no check raises (R110 step 5). -/
theorem State.readSrc3_mem_ok {s : State} {ops : Operands} {ll m b} (hs : ops.src3 = .mem ll m)
    (h : s.readSrc3 ops = .ok b) :
    s.accessFault ops m = none ∧ b = s.readM16 (s.linearAddress ops m) := by
  simp only [State.readSrc3, hs] at h
  split at h
  · cases h
  · next hn => exact ⟨hn, by simpa using h.symm⟩

/-- The register form reads `zmm[s3][15:0]` (R111). -/
theorem State.readSrc3_reg {s : State} {ops : Operands} {s3 rc} (hs : ops.src3 = .reg s3 rc) :
    s.readSrc3 ops = .ok (s.readHalf s3) := by
  simp [State.readSrc3, hs]

/-- What a masked-off operand 3 can answer (R60). -/
theorem State.maskedOffSrc3_cases (s : State) (ops : Operands) :
    (s.maskedOffSrc3 ops = .ok s.draws) ∨
    (∃ ll m e, ops.src3 = .mem ll m ∧ s.accessFault ops m = some e ∧
      ((s.cfg.maskedOffMem = .perform ∧ s.maskedOffSrc3 ops = .error e) ∨
       (s.cfg.maskedOffMem = .either ∧ Config.maskedOffPerforms s.draws = true ∧
          s.maskedOffSrc3 ops = .error e) ∨
       (s.cfg.maskedOffMem = .either ∧ Config.maskedOffPerforms s.draws = false ∧
          s.maskedOffSrc3 ops = .ok (s.draws + 1)))) := by
  unfold State.maskedOffSrc3
  cases h3 : ops.src3 with
  | reg s3 rc => exact .inl rfl
  | mem ll m =>
    cases ha : s.accessFault ops m with
    | none => exact .inl (by simp [ha])
    | some e =>
      cases hm : s.cfg.maskedOffMem with
      | suppress => exact .inl (by simp [ha])
      | perform => exact .inr ⟨ll, m, e, rfl, ha, .inl ⟨rfl, by simp [ha]⟩⟩
      | either =>
        cases hp : Config.maskedOffPerforms s.draws with
        | true => exact .inr ⟨ll, m, e, rfl, ha, .inr (.inl ⟨rfl, rfl, by simp [ha]⟩)⟩
        | false => exact .inr ⟨ll, m, e, rfl, ha, .inr (.inr ⟨rfl, rfl, by simp [ha]⟩)⟩

/-! ## The shared execution -/

/-- The sign of an instruction's product: negated for the three mnemonics with `N` (R112). -/
def Instr.neg : Instr → Bool
  | .vfmsub132sh _ => false
  | .vfmsub213sh _ => false
  | .vfmsub231sh _ => false
  | .vfnmsub132sh _ => true
  | .vfnmsub213sh _ => true
  | .vfnmsub231sh _ => true

/-- The operand order of an instruction (R112). -/
def Instr.order : Instr → OperandOrder
  | .vfmsub132sh _ => .o132
  | .vfmsub213sh _ => .o213
  | .vfmsub231sh _ => .o231
  | .vfnmsub132sh _ => .o132
  | .vfnmsub213sh _ => .o213
  | .vfnmsub231sh _ => .o231

/-- The six meanings are the shared execution (R126 (1)). -/
theorem exec_eq_execFms (i : Instr) (s : State) :
    exec i s = execFms (Instr.neg i) (Instr.order i) i.ops s := by
  cases i <;> rfl

/-- Everything an execution that has a next state has done (R110). -/
theorem execFms_next {neg order ops} {s t : State} (h : execFms neg order ops s = .next t) :
    s.lengthUd ops.src3 = false ∧ s.fp16Usable = true ∧ s.cr0TS = false ∧
    ((s.maskBit ops.mask = true ∧ ∃ b r f, s.readSrc3 ops = .ok b ∧
        arithmetic neg order (s.fmsEnv ops.src3) (s.readHalf ops.dest) (s.readHalf ops.src2) b =
          .result r f ∧
        t = s.commit ops.dest r f ops.length) ∨
     (s.maskBit ops.mask = false ∧ ∃ n, s.maskedOffSrc3 ops = .ok n ∧
        t = (s.commit ops.dest (maskedLow ops.mask (s.readHalf ops.dest)) FpFlags.empty
              ops.length).setDraws n)) := by
  unfold execFms at h
  split at h
  · simp at h
  next h1 =>
  split at h
  · simp at h
  next h2 =>
  simp only [Bool.or_eq_true, Bool.not_eq_true', not_or, Bool.not_eq_true, Bool.not_eq_false] at h1
  refine ⟨h1.1, h1.2, by simpa using h2, ?_⟩
  split at h
  · next hm =>
    refine .inl ⟨hm, ?_⟩
    split at h
    · simp at h
    next b hb =>
    unfold finish at h
    split at h
    · simp at h
    next r f hr => exact ⟨b, r, f, hb, hr, by cases h; rfl⟩
  · next hm =>
    refine .inr ⟨by simpa using hm, ?_⟩
    split at h
    · simp at h
    next n hn => exact ⟨n, hn, by cases h; rfl⟩

/-- Everything an execution that faults can have done: the state at the fault is the state before, or that
state with flags signalled, for #XM or #UD (R208, R211). -/
theorem execFms_fault {neg order ops} {s : State} {φ : Fault} (h : execFms neg order ops s = .fault φ) :
    φ.final = s ∨
      (s.maskBit ops.mask = true ∧ ∃ b f, s.readSrc3 ops = .ok b ∧
        arithmetic neg order (s.fmsEnv ops.src3) (s.readHalf ops.dest) (s.readHalf ops.src2) b =
          .trap f ∧
        φ = (if s.osxmmexcpt then Exception.xm else .ud).toFault (s.signal f)) := by
  unfold execFms at h
  split at h
  · left; simp at h; simp [← h]
  split at h
  · left; simp at h; simp [← h]
  split at h
  · next hm =>
    split at h
    · left; simp at h; simp [← h]
    next b hb =>
    unfold finish at h
    split at h
    · next f hf =>
      right
      refine ⟨hm, b, f, hb, hf, ?_⟩
      simpa using h.symm
    · simp at h
  · split at h
    · left; simp at h; simp [← h]
    · simp at h

/-- No meaning refuses. -/
theorem execFms_ne_refused {neg order ops} (s : State) (r : Refusal) :
    execFms neg order ops s ≠ .refused r := by
  unfold execFms finish
  intro h
  repeat' split at h
  all_goals simp at h

/-- Everything a step that has a next state has done. -/
theorem step_next {s t : State} (h : step s = .next t) :
    s.admissible = true ∧ ∃ i, decodeFrom s.cfg.mode s.fetchByte = .ok (.instr i) ∧
      s.registersExist i.ops = true ∧ exec i s = .next t := by
  unfold step fetchAndRun at h
  split at h
  · cases h
  next ha =>
  refine ⟨by simpa using ha, ?_⟩
  split at h
  · simp at h
  · cases h
  · simp at h
  · simp at h
  next i hi =>
    split at h
    · next hr => exact ⟨i, hi, hr, h⟩
    · cases h

end Sys2Proof.Machine
end

