-- ==== Sys2Proof/Laws/Exec.lean ====
section
/-! SUPPORT. The laws of a commit, of the checks of an access and of a fetch, in the terms of Safety. -/

namespace Sys2Proof.Machine

/-! ## MXCSR -/

theorem orFlags_flags (m : BitVec 32) (f : FpFlags) :
    (orFlags m f).extractLsb' 0 6 = m.extractLsb' 0 6 ||| f.toBits := by
  apply BitVec.eq_of_getLsbD_eq
  intro i hi
  have h : i < 32 := by omega
  simp [orFlags, hi, h]

theorem orFlags_control (m : BitVec 32) (f : FpFlags) :
    (orFlags m f).extractLsb' 6 26 = m.extractLsb' 6 26 := by
  apply BitVec.eq_of_getLsbD_eq
  intro i hi
  simp only [BitVec.getLsbD_extractLsb', hi, decide_true, Bool.true_and]
  exact orFlags_high m f (by omega)

/-! ## Completion -/

/-- A commit leaves exactly what R115, R116 and R119 say. -/
theorem completed_commit (s : State) (d : BitVec 5) (low : Half) (f : FpFlags) (len : Nat) :
    Completed s (s.commit d low f len) d low f len s.draws where
  low := by simp [State.readHalf]
  kept := by simp
  zeroed := by simp
  others := fun j h => State.readZmm_commit_other s low f len h
  flags := orFlags_flags _ _
  control := orFlags_control _ _
  rip := rfl
  k := fun _ => rfl
  gpr := fun _ => rfl
  mem := fun _ => rfl
  sys := rfl
  cfg := rfl
  draws := rfl

/-- The same with the number of consumed choices set. -/
theorem completed_commit_setDraws (s : State) (d : BitVec 5) (low : Half) (f : FpFlags) (len n : Nat) :
    Completed s ((s.commit d low f len).setDraws n) d low f len n :=
  { completed_commit s d low f len with draws := rfl }

/-- The shared arithmetic is the formula of each mnemonic (R120 to R125). -/
theorem outcome_eq_arithmetic (i : Instr) (s : State) (b : Half) :
    s.outcome i b = arithmetic (Instr.neg i) (Instr.order i) (s.fmsEnv i.ops.src3)
      (s.readHalf i.ops.dest) (s.readHalf i.ops.src2) b := by
  cases i <;> rfl

/-! ## Checks of an access -/

/-- What `Translate` answers: the code of a refused range and the address asked for (R58). -/
theorem State.translate_some {s : State} {la : Addr} {kind : AccessKind} {e : Exception}
    (h : s.translate la kind = some e) :
    ∃ r ∈ s.cfg.pageFaults, r.kind = kind ∧ r.first ≤ la ∧ la ≤ r.last ∧ e = .pf r.code la := by
  unfold State.translate at h
  split at h
  · next r hr =>
    have hp := List.find?_some hr
    simp only [Bool.and_eq_true, beq_iff_eq, decide_eq_true_eq] at hp
    exact ⟨r, List.mem_of_find?_eq_some hr, hp.1.1, hp.1.2, hp.2, by simpa using h.symm⟩
  · cases h

/-- A 2-byte access raises nothing exactly where every check passes (R205 to R207). -/
theorem State.checkM16_none {s : State} {seg : Segment} {la : Addr} :
    s.checkM16 seg la = none ↔
      s.canonicalAt la = true ∧ s.canonicalAt (la + 1) = true ∧ s.alignFault la = none ∧
        s.translate la .read = none ∧ s.translate (la + 1) .read = none := by
  unfold State.checkM16 State.pageFault16
  cases s.canonicalAt la <;> cases s.canonicalAt (la + 1) <;> simp
  cases s.alignFault la <;> cases s.translate la .read <;> cases s.translate (la + 1) .read <;> simp

/-- A byte is fetched exactly where its address is canonical and translated (R51, R205 (b), R206). -/
theorem State.fetchByte_ok {s : State} {n : Nat} {b : Byte} :
    s.fetchByte n = .ok b ↔
      s.canonicalAt (s.rip + BitVec.ofNat 64 n) = true ∧
        s.translate (s.rip + BitVec.ofNat 64 n) .fetch = none ∧
        b = s.readByte (s.rip + BitVec.ofNat 64 n) := by
  unfold State.fetchByte
  dsimp only
  generalize s.rip + BitVec.ofNat 64 n = a
  cases s.canonicalAt a
  · simp
  · cases s.translate a .fetch with
    | none => simp [eq_comm]
    | some e => simp

end Sys2Proof.Machine
end

