-- ==== Sys2Proof/Laws/PerInstr.lean ====
section
/-! SUPPORT. Families of lemmas per instruction. -/

namespace Sys2Proof.Laws

@[simp] theorem disp32Bytes_length (d : BitVec 32) : (disp32Bytes d).length = 4 := rfl

@[simp] theorem disp_bytes_length (d : Disp) : d.bytes.length = d.length := by
  cases d <;> rfl

@[simp] theorem operand3_bytes_length (o : Operand3) : o.bytes.length = o.length := by
  cases o with
  | reg s3 rc => rfl
  | mem ll m =>
    cases m <;> simp [Operand3.bytes, Operand3.length, MemOperand.bytes, MemOperand.length]
    omega

/-- The number of bytes an instruction encodes to is its length (R71). -/
def EncodeLength.Statement (i : Instr) : Prop := (encode i).length = i.length

theorem encode_length_of (i : Instr) : EncodeLength.Statement i := by
  simp [EncodeLength.Statement, encode, Instr.length, Operands.length]
  omega

theorem EncodeLength.vfmsub132sh (ops : Operands) : EncodeLength.Statement (.vfmsub132sh ops) :=
  encode_length_of _
theorem EncodeLength.vfmsub213sh (ops : Operands) : EncodeLength.Statement (.vfmsub213sh ops) :=
  encode_length_of _
theorem EncodeLength.vfmsub231sh (ops : Operands) : EncodeLength.Statement (.vfmsub231sh ops) :=
  encode_length_of _
theorem EncodeLength.vfnmsub132sh (ops : Operands) : EncodeLength.Statement (.vfnmsub132sh ops) :=
  encode_length_of _
theorem EncodeLength.vfnmsub213sh (ops : Operands) : EncodeLength.Statement (.vfnmsub213sh ops) :=
  encode_length_of _
theorem EncodeLength.vfnmsub231sh (ops : Operands) : EncodeLength.Statement (.vfnmsub231sh ops) :=
  encode_length_of _

end Sys2Proof.Laws
end

