-- ==== Sys2Proof/Tests/Slice0.lean ====
section
/-! SUPPORT. Tests whose expected values come from the spec, and for each statement that has hypotheses a state
and operands that meet them (`witness_...`). -/

namespace Sys2Proof.Tests
open Sys2Proof.Machine

-- One theorem at a time: the kernel evaluations below, all waiting at once, exhaust the threads.
set_option Elab.async false

/-! ## Well-formedness: an ill-formed term for each check -/

/-- `xmm1, xmm2` and operand 3, without a writemask. -/
def plain (src3 : Operand3) : Operands := ⟨[], 1, 2, src3, .unmasked⟩

/-- Operand 3 is `xmm3`. -/
def regOps : Operands := plain (.reg 3 (.dynamic 0))

/-- Operand 3 is `[rax]`. -/
def memOps : Operands := plain (.mem 0 (.base 0 0 .none))

theorem test_wf_plain : (regOps.wf .mode64 && regOps.wf .mode32 && memOps.wf .mode64) = true := by decide

/-- R72: two segment overrides. -/
theorem test_wf_two_segments : { regOps with legacy := [.cs, .ss] }.wf .mode64 = false := by decide
/-- R89: the 16-bit address size. -/
theorem test_wf_address16 : { regOps with legacy := [.addrSize] }.wf .mode32 = false := by decide
/-- R71: 15 bytes are admitted, 16 are not. -/
theorem test_wf_length :
    { regOps with legacy := List.replicate 9 .addrSize }.wf .mode64 = true ∧
      { regOps with legacy := List.replicate 10 .addrSize }.wf .mode64 = false := by decide
/-- R93: operand 1. -/
theorem test_wf_dest32 : { regOps with dest := 8 }.wf .mode32 = false := by decide
/-- R93: operand 2. -/
theorem test_wf_src2_32 : { regOps with src2 := 8 }.wf .mode32 = false := by decide
/-- R93: operand 3. -/
theorem test_wf_src3_32 : (plain (.reg 8 (.dynamic 0))).wf .mode32 = false := by decide
/-- R84: `rm` = 100b is no base register. -/
theorem test_wf_base_rsp : (plain (.mem 0 (.base 0 12 .none))).wf .mode64 = false := by decide
/-- R84: `mod` = 00b with `rm` = 101b is no base register. -/
theorem test_wf_base_rbp : (plain (.mem 0 (.base 0 13 .none))).wf .mode64 = false := by decide
/-- R85: the same in the SIB byte. -/
theorem test_wf_sib_rbp : (plain (.mem 0 (.sib 0 0 13 .none))).wf .mode64 = false := by decide
/-- R93: the base, the index, and the bits `X` and `B` where they are ignored. -/
theorem test_wf_mem32 :
    (plain (.mem 0 (.base 0 8 .none))).wf .mode32 = false ∧
    (plain (.mem 0 (.base 1 0 .none))).wf .mode32 = false ∧
    (plain (.mem 0 (.sib 0 8 0 .none))).wf .mode32 = false ∧
    (plain (.mem 0 (.sib 0 0 8 .none))).wf .mode32 = false ∧
    (plain (.mem 0 (.ripDisp 1 0 0))).wf .mode32 = false ∧
    (plain (.mem 0 (.ripDisp 0 1 0))).wf .mode32 = false ∧
    (plain (.mem 0 (.sibNoBase 0 8 0 0))).wf .mode32 = false ∧
    (plain (.mem 0 (.sibNoBase 0 0 1 0))).wf .mode32 = false := by decide

/-! ## Decoding of words written out from the encoding (95_test_vectors.md E1 to E6, R102) -/

-- P0 = 1111 0110b, P1 = 0 1101 1 01b, P2 = 0 00 0 1 000b, ModRM = 11 001 011b
theorem test_decode_vfmsub132sh :
    decode .mode64 [0x62, 0b11110110, 0b01101101, 0b00001000, 0x9B, 0b11001011] =
      .instr (.vfmsub132sh regOps) := by decide +kernel
theorem test_decode_vfmsub213sh :
    decode .mode64 [0x62, 0b11110110, 0b01101101, 0b00001000, 0xAB, 0b11001011] =
      .instr (.vfmsub213sh regOps) := by decide +kernel
theorem test_decode_vfmsub231sh :
    decode .mode64 [0x62, 0b11110110, 0b01101101, 0b00001000, 0xBB, 0b11001011] =
      .instr (.vfmsub231sh regOps) := by decide +kernel
theorem test_decode_vfnmsub132sh :
    decode .mode64 [0x62, 0b11110110, 0b01101101, 0b00001000, 0x9F, 0b11001011] =
      .instr (.vfnmsub132sh regOps) := by decide +kernel
theorem test_decode_vfnmsub213sh :
    decode .mode64 [0x62, 0b11110110, 0b01101101, 0b00001000, 0xAF, 0b11001011] =
      .instr (.vfnmsub213sh regOps) := by decide +kernel
theorem test_decode_vfnmsub231sh :
    decode .mode64 [0x62, 0b11110110, 0b01101101, 0b00001000, 0xBF, 0b11001011] =
      .instr (.vfnmsub231sh regOps) := by decide +kernel

/-- E21: `vfmsub231sh xmm1{k7}{z}, xmm2, [rax+rcx*4+16]`. -/
theorem test_decode_sib :
    decode .mode64 [0x62, 0xF6, 0x6D, 0x8F, 0xBB, 0x4C, 0x88, 0x08] =
      .instr (.vfmsub231sh ⟨[], 1, 2, .mem 0 (.sib 2 1 0 (.disp8 8)), .zeroing .k7⟩) := by decide +kernel
/-- E25: no base, no index. -/
theorem test_decode_no_base :
    decode .mode64 [0x62, 0xF6, 0x6D, 0x08, 0x9B, 0x0C, 0x25, 0x78, 0x56, 0x34, 0x12] =
      .instr (.vfmsub132sh (plain (.mem 0 (.sibNoBase 0 4 0 0x12345678)))) := by decide +kernel
/-- R95: `W` = 1 is refused, R74: `P0[3]` = 1 is #UD, R76: `b` = 1 with memory is #UD. -/
theorem test_decode_denied :
    decode .mode64 [0x62, 0xF6, 0xED, 0x08, 0x9B, 0xCB] = .refused .otherW ∧
    decode .mode64 [0x62, 0xFE, 0x6D, 0x08, 0x9B, 0xCB] = .ud ∧
    decode .mode64 [0x62, 0xF6, 0x6D, 0x18, 0x9B, 0x08] = .ud := by decide +kernel

/-- The opcode-table word of `VFMSUB132SH` with `ModRM` = 11 001 011b, bytes from the least significant up. -/
theorem test_table_word : decodeTableWord 48 0xCB9B086DF662 = some (.vfmsub132sh regOps) := by decide +kernel

/-! ## Steps -/

/-- An enabled machine at `rip` = 1000H with the halves `D`, `A`, `B` in `zmm1`, `zmm2`, `zmm3`, and 4200H at
2000H. -/
def machine (mxcsr : BitVec 32) (D A B : Half) : State :=
  let s := ((State.reset.boot.setRip 0x1000).writeZmm 1 (D.setWidth 512)).writeZmm 2 (A.setWidth 512)
  { s.writeZmm 3 (B.setWidth 512) with
    mxcsr := mxcsr
    mem := Memory.writeBytes [] 0x2000 [0x00, 0x42] }

/-- `RAX` <- `v`. -/
def withRax (s : State) (v : BitVec 64) : State := { s with gpr := s.gpr.set 0 v }

/-- `k1` <- `v`. -/
def withK1 (s : State) (v : BitVec 64) : State := { s with k := s.k.set 1 v }

/-- The low element of `zmm1`, `MXCSR` and `rip` after a step. -/
def summary : Host.Outcome State Fault Refusal → Option (Half × BitVec 32 × Addr)
  | .next t => some (t.readHalf 1, t.mxcsr, t.rip)
  | .fault _ => none
  | .refused _ => none

/-- The exception, the low element of `zmm1` and `MXCSR` at a fault. -/
def faultSummary : Host.Outcome State Fault Refusal → Option (Exception × Half × BitVec 32)
  | .next _ => none
  | .fault φ => some (φ.exception, φ.final.readHalf 1, φ.final.mxcsr)
  | .refused _ => none

/-- One step on the bytes given. -/
def stepOn (s : State) (bytes : List Byte) : Host.Outcome State Fault Refusal :=
  step { s with mem := Memory.writeBytes s.mem s.rip bytes }

/-- R120, worked line. -/
theorem test_step_vfmsub132sh :
    summary (stepOn (machine 0x1F80 0x4000 0x3E00 0x4200) [0x62, 0xF6, 0x6D, 0x08, 0x9B, 0xCB]) =
      some (0x4480, 0x1F80, 0x1006) := by decide +kernel
/-- R121, worked line. -/
theorem test_step_vfmsub213sh :
    summary (stepOn (machine 0x1F80 0x4000 0x3E00 0x4200) [0x62, 0xF6, 0x6D, 0x08, 0xAB, 0xCB]) =
      some (0x0000, 0x1F80, 0x1006) := by decide +kernel
/-- V25: a tie, to even. -/
theorem test_step_vfmsub231sh :
    summary (stepOn (machine 0x1F80 0x0000 0x3555 0x4200) [0x62, 0xF6, 0x6D, 0x08, 0xBB, 0xCB]) =
      some (0x3C00, 0x1FA0, 0x1006) := by decide +kernel
/-- V31: negative overflow under `RU`. -/
theorem test_step_vfnmsub132sh :
    summary (stepOn (machine 0x5F80 0x7BFF 0x0000 0x4000) [0x62, 0xF6, 0x6D, 0x08, 0x9F, 0xCB]) =
      some (0xFBFF, 0x5FA8, 0x1006) := by decide +kernel
/-- V24: the order and the sign of the 213 form under `RD`. -/
theorem test_step_vfnmsub213sh :
    summary (stepOn (machine 0x3F80 0x3C01 0x3C01 0x0000) [0x62, 0xF6, 0x6D, 0x08, 0xAF, 0xCB]) =
      some (0xBC03, 0x3FA0, 0x1006) := by decide +kernel
/-- V61: a NaN keeps its sign. -/
theorem test_step_vfnmsub231sh :
    summary (stepOn (machine 0x1F80 0xFE03 0x3C00 0x4000) [0x62, 0xF6, 0x6D, 0x08, 0xBF, 0xCB]) =
      some (0xFE03, 0x1F80, 0x1006) := by decide +kernel
/-- M4: a masked-off instruction on an SNaN with `IM` = 0. -/
theorem test_step_masked_off :
    summary (stepOn (machine 0x1F00 0x4000 0x7D01 0x4200) [0x62, 0xF6, 0x6D, 0x09, 0x9B, 0xCB]) =
      some (0x4000, 0x1F00, 0x1006) := by decide +kernel
/-- A1, V1: the memory form. -/
theorem test_step_memory :
    summary (stepOn (withRax (machine 0x1F80 0x4000 0x3C00 0) 0x2000) [0x62, 0xF6, 0x6D, 0x08, 0x9B, 0x08]) =
      some (0x4500, 0x1F80, 0x1006) := by decide +kernel
/-- V86: an unmasked overflow. -/
theorem test_step_xm :
    faultSummary (stepOn (machine 0x1B80 0x7BFF 0x0000 0x4100) [0x62, 0xF6, 0x6D, 0x08, 0x9B, 0xCB]) =
      some (.xm, 0x7BFF, 0x1BA8) := by decide +kernel
/-- A16: a non-canonical address through DS. -/
theorem test_step_gp :
    faultSummary (stepOn (withRax (machine 0x1F80 0x4000 0x3C00 0) 0x800000000000)
      [0x62, 0xF6, 0x6D, 0x08, 0x9B, 0x08]) = some (.gp, 0x4000, 0x1F80) := by decide +kernel

/-! ## The arithmetic -/

/-- The rounding mode with every exception masked. -/
def masked (rm : RoundMode) : FmsEnv := ⟨rm, FpMasks.all, false, false, false, FpParams.thisHardware⟩

/-- R170: the product is not rounded by itself. -/
theorem test_fused : fms16 (masked .rn) false 0x3C01 0x3C01 0x3C02 = .result 0x0010 {} := by decide +kernel
/-- V45, V46: tininess after rounding. -/
theorem test_tiny :
    fms16 (masked .rn) false 0x0462 0x3B4D 0 = .result 0x0400 { pe := true } ∧
    fms16 (masked .rz) false 0x0462 0x3B4D 0 = .result 0x03FF { ue := true, pe := true } := by
  decide +kernel

/-! ## Witnesses: the hypotheses of each statement can be met -/

theorem witness_DecodeOfEncode : (Instr.vfmsub132sh memOps).wf .mode64 = true := by decide

theorem witness_DecodedBytesAreTheEncoding :
    decode .mode32 [0x62, 0xF6, 0x6D, 0x08, 0x9B, 0xCB, 0xFF] = .instr (.vfmsub132sh regOps) := by
  decide +kernel

/-- `P0[3]` = 1 and `P1[2]` = 0, behind a prefix. -/
theorem witness_ReservedEncodingsAreUd :
    PrefixBytes .mode64 [0x67] ∧ PrefixesAdmitted .mode64 [0x67] ∧
    SelectsOne .mode64 0xFE 0x6D 0x08 0x9B ∧ Reserved .mode64 [0x67] 0xFE 0x6D 0x08 0xCB ∧
    SelectsOne .mode64 0xF6 0x69 0x08 0xAB ∧ Reserved .mode64 [0x67] 0xF6 0x69 0x08 0xCB := by
  decide +kernel

/-- Zeroing without a writemask in `Mode32`, `b` with memory, a LOCK prefix. -/
theorem witness_ReservedEncodingsAreUd_rest :
    SelectsOne .mode32 0xF6 0x6D 0x88 0xBF ∧ Reserved .mode32 [] 0xF6 0x6D 0x88 0xCB ∧
    SelectsOne .mode64 0xF6 0x6D 0x18 0x9B ∧ Reserved .mode64 [] 0xF6 0x6D 0x18 0x08 ∧
    operandTail 0x08 0 = 0 ∧
    PrefixBytes .mode64 [0xF0] ∧ Reserved .mode64 [0xF0] 0xF6 0x6D 0x08 0xCB := by
  decide +kernel

/-- Ten prefixes before 6 bytes, and five before 11. -/
theorem witness_OverlongInstructionsAreGp0 :
    PrefixBytes .mode64 (List.replicate 10 0x67) ∧ PrefixesAdmitted .mode64 (List.replicate 10 0x67) ∧
    SelectsOne .mode64 0xF6 0x6D 0x08 0x9B ∧ operandTail 0xCB 0 = 0 ∧ operandTail 0x0C 0x25 = 5 ∧
    15 < (List.replicate 10 0x67#8).length + 6 + operandTail 0xCB 0 ∧
    15 < (List.replicate 5 0x67#8).length + 6 + operandTail 0x0C 0x25 := by
  decide +kernel

/-- A VEX byte; two segment overrides; the 16-bit address size. -/
theorem witness_OtherBytesAreRefused :
    PrefixBytes .mode64 [] ∧ LegacyPrefix.ofByte 0xC5 = none ∧
    forbiddenPrefix .mode64 0xC5 = false ∧ (0xC5 : Byte) ≠ 0x62 ∧
    PrefixBytes .mode64 [0x2E, 0x36] ∧ ¬ PrefixesAdmitted .mode64 [0x2E, 0x36] ∧
    PrefixBytes .mode32 [0x67] ∧ ¬ PrefixesAdmitted .mode32 [0x67] := by
  decide +kernel

/-- Another map, `W` = 1, another `pp`, another opcode, an extension bit in `Mode32`. -/
theorem witness_OtherBytesAreRefused_payload :
    ¬ SelectsOne .mode64 0xF5 0x6D 0x08 0x9B ∧ ¬ SelectsOne .mode64 0xF6 0xED 0x08 0x9B ∧
    ¬ SelectsOne .mode64 0xF6 0x6C 0x08 0x9B ∧ ¬ SelectsOne .mode64 0xF6 0x6D 0x08 0x9A ∧
    ¬ SelectsOne .mode32 0xE6 0x6D 0x08 0x9B := by
  decide +kernel

/-- The machine with the six bytes of `regOps` at `rip`. -/
def loaded : State :=
  let s := machine 0x1F80 0x4000 0x3E00 0x4200
  { s with mem := Memory.writeBytes s.mem s.rip [0x62, 0xF6, 0x6D, 0x08, 0x9B, 0xCB] }

/-- Whether the byte at offset `k` from `rip` is fetched and is `b`. -/
def fetches (s : State) (k : Nat) (b : Byte) : Bool :=
  match s.fetchByte k with
  | .ok c => c == b
  | .error _ => false

theorem fetches_ok {s : State} {k : Nat} {b : Byte} (h : fetches s k b = true) : s.fetchByte k = .ok b := by
  unfold fetches at h
  split at h
  · next c hc => rw [hc]; simpa using h
  · cases h

theorem loaded_fetches : ∀ k (h : k < (encode (.vfmsub132sh regOps)).length),
    fetches loaded k (encode (.vfmsub132sh regOps))[k] = true := by decide +kernel

theorem witness_StepRunsTheDecodedInstruction :
    loaded.admissible = true ∧ (Instr.vfmsub132sh regOps).wf loaded.cfg.mode = true ∧
    loaded.registersExist regOps = true ∧ loaded.cfg.nVReg64 = 32 ∧ loaded.cfg.nVReg32 = 8 ∧
    ∀ (k : Nat) (h : k < (encode (.vfmsub132sh regOps)).length),
      loaded.fetchByte k = .ok (encode (.vfmsub132sh regOps))[k] :=
  ⟨by decide +kernel, by decide +kernel, by decide +kernel, by decide +kernel, by decide +kernel,
    fun k h => fetches_ok (loaded_fetches k h)⟩

/-- `loaded` with `NVREG` = `n`; the largest register that `regOps` names is 3. -/
def withNVReg (n : Nat) : State := { loaded with cfg := { loaded.cfg with nVReg64 := n } }

/-- `loaded` with RFLAGS.TF set. -/
def stepping : State := { loaded with sys := { loaded.sys with rflags := 0x102 } }

/-- The reason a step is refused. -/
def refusalOf : Host.Outcome State Fault Refusal → Option Refusal
  | .next _ => none
  | .fault _ => none
  | .refused r => some r

/-- R13: the last register that exists, and the first that does not; R230: TF = 1 and TF = 0. -/
theorem witness_StepFollowsTheDecoder_clauses :
    summary (step (withNVReg 4)) = some (0x4480, 0x1F80, 0x1006) ∧
    refusalOf (step (withNVReg 3)) = some .noSuchRegister ∧
    stepping.admissible = false ∧ refusalOf (step stepping) = some .inadmissibleState ∧
    loaded.admissible = true := by decide +kernel

theorem witness_StepFollowsTheDecoder :
    loaded.admissible = true ∧
    ∀ (k : Nat) (h : k < [0x62#8].length), loaded.fetchByte k = .ok [0x62#8][k] := by
  refine ⟨by decide +kernel, fun k h => fetches_ok ?_⟩
  revert k
  decide +kernel

/-- `loaded` whose third byte cannot be fetched. -/
def unfetchable : State :=
  { loaded with cfg := { loaded.cfg with pageFaults := [⟨.fetch, 0x1002, 0x1002, 0x14⟩] } }

/-- `loaded` whose sixth byte is the first after the canonical lower half. -/
def atTheEdge : State :=
  { loaded with
    rip := 0x7FFFFFFFFFFB
    mem := Memory.writeBytes [] 0x7FFFFFFFFFFB [0x62, 0xF6, 0x6D, 0x08, 0x9B] }

theorem witness_FetchFaultsAtTheFirstFailingByte :
    (unfetchable.admissible = true ∧
      (∀ (k : Nat) (h : k < (encode (.vfmsub132sh regOps)).length), k < 2 →
        fetches unfetchable k (encode (.vfmsub132sh regOps))[k] = true) ∧
      unfetchable.canonicalAt (unfetchable.rip + BitVec.ofNat 64 2) = true ∧
      unfetchable.translate (unfetchable.rip + BitVec.ofNat 64 2) .fetch = some (.pf 0x14 0x1002)) ∧
    (atTheEdge.admissible = true ∧
      (∀ (k : Nat) (h : k < (encode (.vfmsub132sh regOps)).length), k < 5 →
        fetches atTheEdge k (encode (.vfmsub132sh regOps))[k] = true) ∧
      atTheEdge.canonicalAt (atTheEdge.rip + BitVec.ofNat 64 5) = false) := by decide +kernel

/-- A step with a next state. -/
theorem witness_StepFrame : ∃ t, step loaded = .next t := by
  have h : summary (step loaded) = some (0x4480, 0x1F80, 0x1006) := by decide +kernel
  cases hs : step loaded with
  | next t => exact ⟨t, rfl⟩
  | fault φ => rw [hs] at h; simp [summary] at h
  | refused r => rw [hs] at h; simp [summary] at h

/-- Whether a run of `n` steps is running, has ended, has faulted or was refused. -/
def runKind (n : Nat) (s : State) : Nat :=
  match run n s with
  | .running _ => 0
  | .ended _ => 1
  | .faulted _ => 2
  | .refused _ => 3

/-- `loaded` with its `CODE_END` after its one instruction. -/
def ending : State := { loaded with cfg := { loaded.cfg with codeEnd := 0x1006 } }

theorem witness_RunFrame : runKind 1 loaded = 0 ∧ runKind 1 ending = 1 := by decide +kernel

/-- All four ends of a run; after its one instruction `loaded` meets a byte 00H, which is refused. -/
theorem witness_RunEnds :
    runKind 1 loaded = 0 ∧ runKind 1 ending = 1 ∧ runKind 1 unfetchable = 2 ∧ runKind 2 loaded = 3 := by
  decide +kernel

theorem witness_FaultsArePrecise :
    faultSummary (step unfetchable) = some (.pf 0x14 0x1002, 0x4000, 0x1F80) := by decide +kernel

/-- `loaded` at the last bytes of the canonical lower half. -/
def lastInstruction : State :=
  { loaded with
    rip := 0x7FFFFFFFFFFA
    mem := Memory.writeBytes [] 0x7FFFFFFFFFFA [0x62, 0xF6, 0x6D, 0x08, 0x9B, 0xCB] }

theorem witness_RipRule :
    summary (step lastInstruction) = some (0x4480, 0x1F80, 0x800000000000) ∧
    canonical .va48 0x800000000000 = false ∧
    (faultSummary (exec (.vfmsub132sh regOps) State.reset)).map Prod.fst = some .ud ∧
    summary (exec (.vfmsub132sh regOps) { loaded with cfg := { loaded.cfg with mode := .mode32 } }) =
      some (0x4480, 0x1F80, 0x1006) := by decide +kernel

theorem witness_ResetRaisesUd : (Instr.vfnmsub213sh memOps).wf .mode64 = true := by decide

theorem witness_LaunchPlacesBytes :
    Memory.wf loaded.mem ∧ [0x62#8, 0x00#8].length ≤ 2 ^ 64 ∧
    ∀ k < [0x62#8, 0x00#8].length, (0x2000 : Addr) ≠ loaded.rip + BitVec.ofNat 64 k := by decide +kernel

theorem witness_StepKeepsInv : loaded.Inv ∧ unfetchable.Inv := by decide +kernel

/-- Operand 3 is read as `b`. -/
def reads (s : State) (ops : Operands) (b : Half) : Bool :=
  match s.readSrc3 ops with
  | .ok c => c == b
  | .error _ => false

theorem reads_ok {s : State} {ops : Operands} {b : Half} (h : reads s ops b = true) :
    s.readSrc3 ops = .ok b := by
  unfold reads at h
  split at h
  · next c hc => rw [hc]; simpa using h
  · cases h

/-- `loaded` with `RAX` = 2000H, where 4200H stands. -/
def memLoaded : State := withRax loaded 0x2000

/-- The hypotheses of the six results, in the register form and in the memory form. -/
theorem witness_Results :
    loaded.Enabled ∧ loaded.lengthUd regOps.src3 = false ∧ loaded.maskBit regOps.mask = true ∧
    reads loaded regOps 0x4200 = true ∧
    memLoaded.Enabled ∧ memLoaded.lengthUd memOps.src3 = false ∧ memLoaded.maskBit memOps.mask = true ∧
    reads memLoaded memOps 0x4200 = true := by decide +kernel

theorem witness_Vfmsub132shResult :
    fms16 (loaded.fmsEnv regOps.src3) false (loaded.readHalf 1) 0x4200 (loaded.readHalf 2) =
      .result 0x4480 {} := by decide +kernel
theorem witness_Vfmsub213shResult :
    fms16 (loaded.fmsEnv regOps.src3) false (loaded.readHalf 2) (loaded.readHalf 1) 0x4200 =
      .result 0x0000 {} := by decide +kernel
theorem witness_Vfmsub231shResult :
    fms16 (loaded.fmsEnv regOps.src3) false (loaded.readHalf 2) 0x4200 (loaded.readHalf 1) =
      .result 0x4100 {} := by decide +kernel
theorem witness_Vfnmsub132shResult :
    fms16 (loaded.fmsEnv regOps.src3) true (loaded.readHalf 1) 0x4200 (loaded.readHalf 2) =
      .result 0xC780 {} := by decide +kernel
theorem witness_Vfnmsub213shResult :
    fms16 (loaded.fmsEnv regOps.src3) true (loaded.readHalf 2) (loaded.readHalf 1) 0x4200 =
      .result 0xC600 {} := by decide +kernel
theorem witness_Vfnmsub231shResult :
    fms16 (loaded.fmsEnv regOps.src3) true (loaded.readHalf 2) 0x4200 (loaded.readHalf 1) =
      .result 0xC680 {} := by decide +kernel

/-- Both disjuncts: all masked, and embedded rounding with nothing masked. -/
theorem witness_AllSixCompleteWhenMasked :
    loaded.AllMasked ∧ reads loaded regOps 0x4200 = true ∧
    (machine 0 0x7BFF 0 0x4000).Enabled ∧
    (machine 0 0x7BFF 0 0x4000).lengthUd (.reg 3 (.embedded .rz)) = false ∧
    (machine 0 0x7BFF 0 0x4000).maskBit .unmasked = true ∧
    reads (machine 0 0x7BFF 0 0x4000) (plain (.reg 3 (.embedded .rz))) 0x4000 = true := by
  decide +kernel

theorem witness_WorkedLines :
    loaded.Enabled ∧ loaded.cfg.fp = FpParams.thisHardware ∧ loaded.lengthUd regOps.src3 = false ∧
    loaded.maskBit regOps.mask = true ∧ loaded.mxcsr = 0x1F80 ∧ loaded.readHalf regOps.dest = 0x4000 ∧
    loaded.readHalf regOps.src2 = 0x3E00 ∧ loaded.readSrc3 regOps = .ok 0x4200 ∧
    ∀ s3 rm, regOps.src3 ≠ .reg s3 (.embedded rm) :=
  ⟨by decide +kernel, by decide +kernel, by decide +kernel, by decide +kernel, by decide +kernel,
    by decide +kernel, by decide +kernel, reads_ok (by decide +kernel), by
      intro s3 rm h
      simp [regOps, plain] at h⟩

/-- `vfmsub132sh xmm1{k1}{z}, xmm2, [rax]` and its merging form. -/
def maskedMem (m : WriteMask) : Operands := { memOps with mask := m }

/-- `k1` = FFFEH and `RAX` at an address that cannot be read, under each value of `MASKED_OFF_MEM`. -/
def maskedOff (v : MaskedOffMem) : State :=
  let s := withK1 (withRax loaded 0x3000) 0xFFFE
  { s with cfg := { s.cfg with maskedOffMem := v, pageFaults := [⟨.read, 0x3000, 0x3FFF, 4⟩] } }

/-- Zeroing and merging, an access that would not fault, one that is suppressed, and no access. -/
theorem witness_MaskedOffCompletes :
    (maskedOff .suppress).Enabled ∧
    (maskedOff .suppress).lengthUd (maskedMem (.zeroing .k1)).src3 = false ∧
    (maskedOff .suppress).maskBit (.zeroing .k1) = false ∧
    (maskedOff .suppress).maskBit (.merging .k1) = false ∧
    (maskedOff .suppress).cfg.maskedOffMem = .suppress ∧
    (withRax (maskedOff .either) 0x2000).accessFault (maskedMem (.merging .k1)) (.base 0 0 .none) = none ∧
    (withRax (maskedOff .either) 0x2000).maskBit (.merging .k1) = false ∧
    (withK1 loaded 1).maskBit (.merging .k1) = true ∧ (withK1 loaded 1).maskBit (.zeroing .k2) = false := by
  decide +kernel

theorem witness_MaskedOffFaultingAccess :
    (maskedOff .perform).Enabled ∧ (maskedOff .perform).maskBit (.zeroing .k1) = false ∧
    (maskedOff .perform).lengthUd (maskedMem (.zeroing .k1)).src3 = false ∧
    (maskedOff .perform).accessFault (maskedMem (.zeroing .k1)) (.base 0 0 .none) =
      some (.pf 4 0x3000) ∧ (maskedOff .perform).cfg.maskedOffMem = .perform ∧
    (maskedOff .either).Enabled ∧ (maskedOff .either).maskBit (.merging .k1) = false ∧
    (maskedOff .either).accessFault (maskedMem (.merging .k1)) (.base 0 0 .none) =
      some (.pf 4 0x3000) ∧ (maskedOff .either).cfg.maskedOffMem = .either := by decide +kernel

/-- The four kinds of completion: with flags, embedded rounding, masked off, computed. -/
theorem witness_MxcsrWrittenOnlyByOr :
    summary (exec (.vfmsub132sh regOps) (machine 0x1F81 0x3C01 0 0x3C01)) =
      some (0x3C02, 0x1FA1, 0x1006) ∧
    summary (exec (.vfmsub132sh (plain (.reg 3 (.embedded .ru)))) (machine 0x1F80 0x3C01 0 0x3C01)) =
      some (0x3C03, 0x1F80, 0x1006) ∧
    summary (exec (.vfmsub132sh { regOps with mask := .merging .k1 }) (machine 0x1F80 0x3C01 0 0x3C01)) =
      some (0x3C01, 0x1F80, 0x1006) := by decide +kernel

theorem witness_Forms132And213Agree :
    regOps.src3 = .reg 3 (.dynamic 0) ∧ isNaN (loaded.readHalf 1) = false ∧
    isNaN (loaded.readHalf 2) = false ∧ isNaN (loaded.readHalf 3) = false := by decide +kernel

/-- Two machines that differ in `zmm9`, `DAZ`, `FTZ` and a byte of memory. -/
theorem witness_ResultDependsOnlyOn :
    loaded.cfg.fp.honoursDazFtz = false ∧
    State.AgreeFor regOps loaded
      { loaded.writeZmm 9 7 with mxcsr := 0x9FC0, mem := Memory.write loaded.mem 0x5000 1 } ∧
    summary (exec (.vfmsub132sh regOps) loaded) = some (0x4480, 0x1F80, 0x1006) := by
  refine ⟨by decide +kernel, ⟨by decide +kernel, by decide +kernel, by decide +kernel,
    by decide +kernel, by decide +kernel, by decide +kernel, ?_, by decide +kernel, by decide +kernel,
    by decide +kernel, ?_, ?_, ?_⟩, by decide +kernel⟩
  · intro s3 rc h
    cases h
    decide +kernel
  · intro ll m h; cases h
  · intro ll m h; cases h
  · intro ll m h; cases h

theorem witness_ChoicesMatterOnlyWhereAnAccessFaults :
    memLoaded.accessFault memOps (.base 0 0 .none) = none ∧
    summary (exec (.vfmsub132sh memOps) memLoaded) = some (0x4480, 0x1F80, 0x1006) ∧
    (faultSummary (exec (.vfmsub132sh memOps) { memLoaded with mxcsr := 0, sys := System.reset })).isSome := by
  decide +kernel

/-- `loaded` where `L'L` = 11b without `b` is ignored (R77). -/
def ignoring : State := { memLoaded with cfg := { memLoaded.cfg with ll3 := .ignore } }

/-- `L'L` = 10b and 11b, under both values of the parameter, in both forms. -/
theorem witness_LengthFieldIgnored :
    (Instr.vfmsub213sh) ∈ opcodeTable.map Prod.snd ∧ (2 : BitVec 2) ≠ 3 ∧ loaded.cfg.ll3 = .ud ∧
    ignoring.cfg.ll3 = .ignore ∧ ignoring.lengthUd (.reg 3 (.dynamic 3)) = false ∧
    loaded.lengthUd (.reg 3 (.dynamic 3)) = true ∧ loaded.lengthUd (.mem 3 (.base 0 0 .none)) = true ∧
    loaded.lengthUd (.reg 3 (.dynamic 2)) = false ∧ loaded.lengthUd (.mem 2 (.base 0 0 .none)) = false ∧
    loaded.lengthUd (.reg 3 (.embedded .rz)) = false := by
  simp [opcodeTable]
  decide +kernel

/-- With `L'L` = 11b the instruction completes where it is ignored and is #UD where it is not. -/
theorem witness_LengthFieldIgnored_ignore :
    summary (exec (.vfmsub132sh (plain (.reg 3 (.dynamic 3)))) ignoring) = some (0x4480, 0x1F80, 0x1006) ∧
    summary (exec (.vfmsub132sh (plain (.mem 3 (.base 0 0 .none)))) ignoring) =
      some (0x4480, 0x1F80, 0x1006) ∧
    faultSummary (exec (.vfmsub132sh (plain (.reg 3 (.dynamic 3)))) loaded) = some (.ud, 0x4000, 0x1F80) := by
  decide +kernel

/-- `loaded` in `Mode32`. -/
def loaded32 : State := { loaded with cfg := { loaded.cfg with mode := .mode32 } }

/-- `vfmsub132sh xmm1, xmm2, fs:[rip−16]` with and without `67H`: 1000H + 11 or 12 bytes − 16 (R86, R89). -/
theorem witness_EffectiveAddressForms :
    loaded.cfg.mode = .mode64 ∧ loaded32.cfg.mode = .mode32 ∧
    loaded.address32 regOps = false ∧ loaded32.address32 regOps = true ∧
    loaded.address32 { regOps with legacy := [.addrSize] } = true ∧
    { loaded with sys := { loaded.sys with fsBase := 0x100000000 } }.linearAddress
      ⟨[.fs], 1, 2, .mem 0 (.ripDisp 0 0 (-16)), .unmasked⟩ (.ripDisp 0 0 (-16)) = 0x100000FFB ∧
    { loaded with rip := 0 }.linearAddress
      ⟨[.addrSize], 1, 2, .mem 0 (.ripDisp 0 0 (-16)), .unmasked⟩ (.ripDisp 0 0 (-16)) = 0xFFFFFFFB := by
  decide +kernel

/-- One mask bit of `MXCSR` at a time, in the three forms of operand 3. -/
theorem witness_RoundingControl_masks :
    ((machine 0x0080 0 0 0).fmsEnv (.reg 3 (.dynamic 0))).masks = ⟨true, false, false, false, false⟩ ∧
    ((machine 0x0100 0 0 0).fmsEnv (.reg 3 (.embedded .rn))).masks = ⟨false, true, false, false, false⟩ ∧
    ((machine 0x0400 0 0 0).fmsEnv (.mem 0 (.base 0 0 .none))).masks = ⟨false, false, true, false, false⟩ ∧
    ((machine 0x0800 0 0 0).fmsEnv (.reg 3 (.dynamic 0))).masks = ⟨false, false, false, true, false⟩ ∧
    ((machine 0x1000 0 0 0).fmsEnv (.reg 3 (.dynamic 0))).masks = ⟨false, false, false, false, true⟩ ∧
    ((machine 0x0200 0 0 0).fmsEnv (.reg 3 (.dynamic 0))).masks = ⟨false, false, false, false, false⟩ := by
  decide +kernel

/-- The four codes of `MXCSR.RC`. -/
theorem witness_RoundingControl :
    ((machine 0x1F80 0 0 0).fmsEnv (.reg 3 (.dynamic 0))).rm = .rn ∧
    ((machine 0x3F80 0 0 0).fmsEnv (.reg 3 (.dynamic 2))).rm = .rd ∧
    ((machine 0x5F80 0 0 0).fmsEnv (.mem 0 (.base 0 0 .none))).rm = .ru ∧
    ((machine 0x7F80 0 0 0).fmsEnv (.mem 2 (.base 0 0 .none))).rm = .rz := by decide +kernel

theorem witness_SegmentOfMemoryOperand :
    legacyOk .mode64 [.addrSize, .fs] = true ∧ legacyOk .mode32 [.ss] = true ∧
    legacyOk .mode64 [.cs] = true ∧ legacyOk .mode32 [] = true := by decide

theorem witness_MemoryOperandRead :
    regOps.src3 = .reg 3 (.dynamic 0) ∧ reads loaded regOps 0x4200 = true ∧
    memOps.src3 = .mem 0 (.base 0 0 .none) ∧ reads memLoaded memOps 0x4200 = true ∧
    reads (withRax memLoaded 0x2001) memOps 0x0042 = true := by decide +kernel

theorem witness_NotUsableIsUd : State.reset.fp16Usable = false ∧ loaded.fp16Usable = true := by
  decide +kernel

/-- `loaded` with CR0.TS set. -/
def taskSwitched : State := { loaded with sys := { loaded.sys with cr0 := loaded.sys.cr0 ||| 8 } }

theorem witness_TaskSwitchedIsNm :
    taskSwitched.fp16Usable = true ∧ taskSwitched.lengthUd regOps.src3 = false ∧
    taskSwitched.sys.cr0.getLsbD 3 = true := by decide +kernel

/-- Operand 3 is `[rbp]`, whose segment is SS. -/
def stackOps : Operands := plain (.mem 0 (.base 0 5 (.disp8 0)))

/-- The last canonical byte, the first non-canonical one, and the last one below the upper half; DS and SS. -/
theorem witness_NonCanonicalOperand :
    memLoaded.Enabled ∧ memLoaded.lengthUd memOps.src3 = false ∧ memLoaded.maskBit memOps.mask = true ∧
    memLoaded.cfg.mode = .mode64 ∧
    (withRax memLoaded 0x7FFFFFFFFFFF).linearAddress memOps (.base 0 0 .none) = 0x7FFFFFFFFFFF ∧
    canonical .va48 0x7FFFFFFFFFFF = true ∧ canonical .va48 (0x7FFFFFFFFFFF + 1) = false ∧
    canonical .va48 0xFFFF7FFFFFFFFFFF = false ∧ canonical .va48 0xFFFF800000000000 = true ∧
    memLoaded.segment memOps (.base 0 0 .none) = .ds ∧
    memLoaded.segment stackOps (.base 0 5 (.disp8 0)) = .ss ∧
    canonical .va57 0xFFFFFFFFFFFFFF = true ∧ canonical .va57 0x100000000000000 = false ∧
    canonical .va57 0xFEFFFFFFFFFFFFFF = false ∧ canonical .va57 0xFF00000000000000 = true ∧
    memLoaded.canonicalAt 0x800000000000 = false ∧ loaded32.canonicalAt 0x800000000000 = true := by
  decide +kernel

/-- The page 3000H to 3FFFH cannot be read; `RAX` is 2FFFH or 3000H. -/
def unreadable (rax : BitVec 64) : State :=
  let s := withRax loaded rax
  { s with cfg := { s.cfg with pageFaults := [⟨.read, 0x3000, 0x3FFF, 4⟩] } }

/-- The ends of a range, the other kind of access, and the first of two ranges that overlap (log 3). -/
theorem witness_OperandPageFault_translate :
    (unreadable 0).translate 0x2FFF .read = none ∧ (unreadable 0).translate 0x3000 .read = some (.pf 4 0x3000) ∧
    (unreadable 0).translate 0x3FFF .read = some (.pf 4 0x3FFF) ∧ (unreadable 0).translate 0x4000 .read = none ∧
    (unreadable 0).translate 0x3000 .fetch = none ∧
    { loaded with cfg := { loaded.cfg with pageFaults := [⟨.read, 1, 2, 5⟩, ⟨.read, 2, 3, 6⟩] } }.translate 2 .read =
      some (.pf 5 2) := by decide +kernel

theorem witness_OperandPageFault :
    (unreadable 0x3000).Enabled ∧ (unreadable 0x3000).acActive = false ∧
    (unreadable 0x3000).linearAddress memOps (.base 0 0 .none) = 0x3000 ∧
    (unreadable 0x3000).canonicalAt 0x3000 = true ∧ (unreadable 0x3000).canonicalAt 0x3001 = true ∧
    (unreadable 0x3000).translate 0x3000 .read = some (.pf 4 0x3000) ∧
    (unreadable 0x2FFF).linearAddress memOps (.base 0 0 .none) = 0x2FFF ∧
    (unreadable 0x2FFF).translate 0x2FFF .read = none ∧
    (unreadable 0x2FFF).translate (0x2FFF + 1) .read = some (.pf 4 0x3000) := by decide +kernel

/-- Alignment checking active: CR0.AM, EFLAGS.AC and privilege level 3. -/
def checking (s : State) : State :=
  { s with sys := { s.sys with
      cr0 := s.sys.cr0 ||| 0x40000
      rflags := s.sys.rflags ||| 0x40000
      cpl := 3 } }

theorem witness_AlignmentCheck :
    (checking (withRax loaded 0x2001)).Enabled ∧ (checking (withRax loaded 0x2001)).acActive = true ∧
    (checking (withRax loaded 0x2001)).linearAddress memOps (.base 0 0 .none) = 0x2001 ∧
    (checking (withRax loaded 0x2001)).canonicalAt 0x2002 = true ∧
    (checking (withRax loaded 0x2001)).translate 0x2001 .read = none ∧
    (checking (withRax loaded 0x2001)).translate 0x2002 .read = none ∧
    (faultSummary (exec (.vfmsub132sh memOps) (checking (withRax loaded 0x2001)))).map Prod.fst =
      some .ac := by decide +kernel

/-- A12, and an odd address whose second byte alone cannot be read. -/
theorem witness_AlignmentBesidePageFault :
    (checking (unreadable 0x3001)).Enabled ∧ (checking (unreadable 0x3001)).acActive = true ∧
    (checking (unreadable 0x3001)).linearAddress memOps (.base 0 0 .none) = 0x3001 ∧
    (checking (unreadable 0x3001)).translate 0x3001 .read = some (.pf 4 0x3001) ∧
    (checking (unreadable 0x2FFF)).translate 0x2FFF .read = none ∧
    (checking (unreadable 0x2FFF)).translate (0x2FFF + 1) .read = some (.pf 4 0x3000) ∧
    (checking (unreadable 0x3001)).cfg.acPfOrder = .either := by decide +kernel

/-- V85. -/
theorem witness_UnmaskedFloatingPointException :
    (machine 0x1B80 0x7BFF 0 0x4000).Enabled ∧
    (machine 0x1B80 0x7BFF 0 0x4000).lengthUd regOps.src3 = false ∧
    reads (machine 0x1B80 0x7BFF 0 0x4000) regOps 0x4000 = true ∧
    (machine 0x1B80 0x7BFF 0 0x4000).outcome (.vfmsub132sh regOps) 0x4000 = .trap { oe := true } ∧
    faultSummary (exec (.vfmsub132sh regOps) (machine 0x1B80 0x7BFF 0 0x4000)) =
      some (.xm, 0x7BFF, 0x1B88) := by decide +kernel

/-- A NaN in each position; quiet and signalling. -/
theorem witness_NanOperand :
    (masked .rn).params = FpParams.thisHardware ∧ isNaN 0x7E01 = true ∧ isSNaN 0x7E01 = false ∧
    isNaN 0xFD02 = true ∧ isSNaN 0xFD02 = true ∧ isNaN 0x7C00 = false := by decide +kernel

/-- V63, V64, V67, V65. -/
theorem witness_InvalidOperation :
    isZero 0x0000 = true ∧ isInf 0x7C00 = true ∧ isZero 0x8000 = true ∧ isNaN 0x3C00 = false ∧
    isInf 0xFC00 = true ∧ ((false ^^ false ^^ false) ≠ !false) ∧ isQNaN 0x7E07 = true := by decide +kernel

/-- Nothing masked. -/
def unmaskedEnv (rm : RoundMode) : FmsEnv := ⟨rm, ⟨false, false, false, false, false⟩, false, false, false,
  FpParams.thisHardware⟩

/-- V68, V71: both with nothing masked too; a denormal operand beside an infinity, masked, unmasked and under `sae`. -/
theorem witness_InfiniteOperand :
    fms16 (masked .rn) false 0x7C00 0x3C00 0xFC00 = .result 0x7C00 {} ∧
    fms16 (masked .rn) false 0x3C00 0x3C00 0x7C00 = .result 0xFC00 {} ∧
    fms16 (unmaskedEnv .rn) false 0x7C00 0x3C00 0xFC00 = .result 0x7C00 {} ∧
    fms16 (unmaskedEnv .rn) false 0x3C00 0x3C00 0x7C00 = .result 0xFC00 {} ∧
    fms16 (masked .rn) false 0x7C00 0x0001 0x3C00 = .result 0x7C00 { de := true } ∧
    fms16 (unmaskedEnv .rn) false 0x7C00 0x0001 0x3C00 = .trap { de := true } ∧
    fms16 { unmaskedEnv .rn with sae := true } false 0x7C00 0x0001 0x3C00 = .result 0x7C00 {} := by
  decide +kernel

/-- V14, V9: both with nothing masked too; a denormal times zero, masked, unmasked and under `sae`. -/
theorem witness_ExactZero :
    exactReal false 0x8000 0x3C00 0x0000 = 0 ∧ exactReal false 0x3C00 0x3C00 0x3C00 = 0 ∧
    isFinite 0x8000 = true ∧ isFinite 0x3C00 = true ∧ isFinite 0x0000 = true ∧
    fms16 (masked .rn) false 0x8000 0x3C00 0x0000 = .result 0x8000 {} ∧
    fms16 (masked .rd) false 0x3C00 0x3C00 0x3C00 = .result 0x8000 {} ∧
    fms16 (unmaskedEnv .rn) false 0x8000 0x3C00 0x0000 = .result 0x8000 {} ∧
    fms16 (unmaskedEnv .rd) false 0x3C00 0x3C00 0x3C00 = .result 0x8000 {} ∧
    exactReal false 0x0001 0x0000 0x8000 = 0 ∧
    fms16 (masked .rd) false 0x0001 0x0000 0x8000 = .result 0x0000 { de := true } ∧
    fms16 (unmaskedEnv .rn) false 0x0001 0x0000 0x8000 = .trap { de := true } ∧
    fms16 { unmaskedEnv .rn with sae := true } false 0x0001 0x0000 0x8000 = .result 0x0000 {} := by
  decide +kernel

/-- V33, just below the overflow threshold, and V34, on it, with its negative. -/
theorem witness_RoundToNearest :
    isFinite 0x7BFF = true ∧ isFinite 0xCBFF = true ∧ isFinite 0xCC00 = true ∧
    |exactReal false 0x7BFF 0x3C00 0xCBFF| < 65520 ∧
    fms16 (masked .rn) false 0x7BFF 0x3C00 0xCBFF = .result 0x7BFF { pe := true } ∧
    65520 ≤ exactReal false 0x7BFF 0x3C00 0xCC00 ∧
    fms16 (masked .rn) false 0x7BFF 0x3C00 0xCC00 = .result 0x7C00 { oe := true, pe := true } ∧
    exactReal true 0x7BFF 0x3C00 0x4C00 ≤ -65520 ∧
    fms16 (masked .rn) true 0x7BFF 0x3C00 0x4C00 = .result 0xFC00 { oe := true, pe := true } := by
  decide +kernel

/-- V28, V43, V35 and the negative overflows. -/
theorem witness_DirectedRounding :
    -65504 ≤ exactReal false 0x7BFF 0x4000 0 ∧
    fms16 (masked .rd) false 0x7BFF 0x4000 0 = .result 0x7BFF { oe := true, pe := true } ∧
    exactReal false 0x0400 0x3BFF 0 ≤ 65504 ∧
    fms16 (masked .ru) false 0x0400 0x3BFF 0 = .result 0x0400 { ue := true, pe := true } ∧
    0 ≤ exactReal false 0x7BFF 0x3C00 0xCC00 ∧
    fms16 (masked .rz) false 0x7BFF 0x3C00 0xCC00 = .result 0x7BFF { pe := true } ∧
    exactReal true 0x7BFF 0x3C00 0x0001 < -65504 ∧
    fms16 (masked .rd) true 0x7BFF 0x3C00 0x0001 = .result 0xFC00 { de := true, oe := true, pe := true } ∧
    65504 < exactReal false 0x7BFF 0x3C00 0x8001 ∧
    fms16 (masked .ru) false 0x7BFF 0x3C00 0x8001 = .result 0x7C00 { de := true, oe := true, pe := true } := by
  decide +kernel

/-- The two sides of the overflow threshold in each mode: 65520 (V33, V34), 65536 and 65504. -/
theorem witness_FlagsOfFiniteOperands :
    (masked .rn).params.honoursDazFtz = false ∧ (masked .rn).sae = false ∧
    (masked .rn).masks.dm = true ∧ exactReal false 0x7BFF 0x3C00 0xCC00 ≠ 0 ∧
    Overflows .rn (exactReal false 0x7BFF 0x3C00 0xCC00) ∧
    ¬ Overflows .rn (exactReal false 0x7BFF 0x3C00 0xCBFF) ∧
    Overflows .rz (exactReal true 0x7BFF 0x3C00 0x5000) ∧
    ¬ Overflows .rz (exactReal true 0x7BFF 0x3C00 0x4FFF) ∧
    Overflows .ru (exactReal false 0x7BFF 0x3C00 0x8001) ∧
    ¬ Overflows .ru (exactReal false 0x7BFF 0x3C00 0x0000) ∧
    Overflows .ru (exactReal true 0x7BFF 0x3C00 0x5000) ∧
    ¬ Overflows .ru (exactReal true 0x7BFF 0x3C00 0x4FFF) ∧
    Overflows .rd (exactReal false 0x7BFF 0x3C00 0xD000) ∧
    ¬ Overflows .rd (exactReal false 0x7BFF 0x3C00 0xCFFF) ∧
    Overflows .rd (exactReal true 0x7BFF 0x3C00 0x0001) ∧
    ¬ Overflows .rd (exactReal true 0x7BFF 0x3C00 0x0000) := by
  unfold Overflows
  decide +kernel

/-- The same of the tininess threshold: 0BE0H × 3410H is 2^−14 − 2^−26, 0400H × 3BFFH is 2^−14 − 2^−25
(R164, V42), 0462H × 3B4DH lies between 2^−14 − 2^−26 and 2^−14 (V45, V46). -/
theorem witness_FlagsOfFiniteOperands_tiny :
    IsTiny .rn (exactReal false 0x0400 0x3BFF 0) ∧ ¬ IsTiny .rn (exactReal false 0x0462 0x3B4D 0) ∧
    exactReal false 0x0BE0 0x3410 0 = 1 / 2 ^ 14 - 1 / 2 ^ 26 ∧
    ¬ IsTiny .rn (exactReal false 0x0BE0 0x3410 0) ∧ IsTiny .rz (exactReal false 0x0BE0 0x3410 0) ∧
    ¬ IsTiny .rz (exactReal false 0x0400 0x3C00 0) ∧
    ¬ IsTiny .ru (exactReal false 0x0BE0 0x3410 0) ∧ IsTiny .ru (exactReal false 0x0400 0x3BFF 0) ∧
    IsTiny .ru (exactReal true 0x0BE0 0x3410 0) ∧ ¬ IsTiny .ru (exactReal true 0x0400 0x3C00 0) ∧
    ¬ IsTiny .rd (exactReal true 0x0BE0 0x3410 0) ∧ IsTiny .rd (exactReal true 0x0400 0x3BFF 0) ∧
    IsTiny .rd (exactReal false 0x0BE0 0x3410 0) ∧ ¬ IsTiny .rd (exactReal false 0x0400 0x3C00 0) := by
  unfold IsTiny
  decide +kernel

/-- `RN` with one exception unmasked. -/
def unmasking (m : FpMasks) : FmsEnv := { masked .rn with masks := m }

/-- V84 to V90: the flags of each kind of trap. -/
theorem witness_FlagsOfFiniteOperands_traps :
    fms16 (unmasking { FpMasks.all with dm := false }) false 0x0001 0x3800 0 = .trap { de := true } ∧
    fms16 (unmasking { FpMasks.all with om := false }) false 0x7BFF 0x4000 0 = .trap { oe := true } ∧
    fms16 (unmasking { FpMasks.all with om := false }) false 0x7BFF 0x4100 0 =
      .trap { oe := true, pe := true } ∧
    fms16 (unmasking { FpMasks.all with pm := false }) false 0x7BFF 0x4000 0 =
      .trap { oe := true, pe := true } ∧
    fms16 (unmasking { FpMasks.all with pm := false }) false 0x3C01 0x3C01 0 = .trap { pe := true } ∧
    fms16 (unmasking { FpMasks.all with um := false }) false 0x0400 0x3800 0 = .trap { ue := true } ∧
    fms16 (unmasking { FpMasks.all with um := false }) false 0x0001 0x3800 0 =
      .trap { de := true, ue := true, pe := true } := by decide +kernel

/-- 131008 = 2047 × 2^6 has 11 significant bits, 2^−15 is a multiple of 2^−24. -/
theorem witness_FlagsOfFiniteOperands_exact :
    FitsElevenBits (exactReal false 0x7BFF 0x4000 0) ∧ IsDenormalMultiple (exactReal false 0x0400 0x3800 0) :=
  ⟨⟨2047, 6, by decide +kernel⟩, ⟨512, by decide +kernel⟩⟩

/-- A machine whose registers have 128 and 8 bits: a write and a read of a higher bit. -/
theorem witness_RegisterParameters :
    let s : State := { loaded with cfg := { loaded.cfg with maxVL := .w128, kWidth := .w8 } }
    s.cfg.maxVL.toNat ≤ 128 ∧ s.cfg.kWidth.toNat ≤ 8 ∧
    ((s.writeZmm 5 (BitVec.allOnes 512)).readZmm 5).getLsbD 127 = true ∧
    ((s.writeZmm 5 (BitVec.allOnes 512)).readZmm 5).getLsbD 128 = false ∧
    (withK1 s 0x1FF).readK 1 = 0xFF ∧ (withK1 loaded 0x1FF).readK 1 = 0x1FF ∧
    loaded.cfg.maxVL.toNat = 512 ∧ loaded.cfg.kWidth.toNat = 64 ∧
    (loaded.writeZmm 5 (BitVec.allOnes 512)).readZmm 5 = BitVec.allOnes 512 := by decide +kernel

theorem witness_RepresentableIsExact :
    val 0x03FF = exactReal false 0x0400 0x3C00 0x0001 ∧ exactReal false 0x0400 0x3C00 0x0001 ≠ 0 ∧
    fms16 (masked .rn) false 0x0400 0x3C00 0x0001 = .result 0x03FF { de := true } := by decide +kernel

theorem witness_ResultIsNeverSignalling :
    fms16 (masked .rn) false 0x7D01 0x3C00 0x3C00 = .result 0x7F01 { ie := true } := by decide +kernel

theorem witness_FlagsNeverTogether : (masked .rn).params = FpParams.thisHardware := rfl

theorem witness_ProductSymmetries :
    (masked .rn).params = FpParams.thisHardware ∧ isNaN 0x3C00 = false ∧
    ¬(isNaN 0x7E01 = true ∧ isNaN 0x3C00 = true) := by decide +kernel

end Sys2Proof.Tests
end

section
/-! The width of the registers: which bits of the storage a read answers (R7, R13, R21, R23). -/

namespace Sys2Proof

theorem VectorWidth.toNat_eq_512_iff (w : VectorWidth) : w.toNat = 512 ↔ w = .w512 := by
  cases w <;> decide

theorem MaskWidth.toNat_eq_64_iff (w : MaskWidth) : w.toNat = 64 ↔ w = .w64 := by
  cases w <;> decide

end Sys2Proof

namespace Sys2Proof.Machine

/-! ## A bit of a register -/

/-- R13: a read answers the bits of the storage below `MAXVL`, and zero above. -/
theorem State.getLsbD_readZmm (s : State) (j : BitVec 5) (b : Nat) :
    (s.readZmm j).getLsbD b =
      (decide (b < s.cfg.maxVL.toNat) && (s.zmm[j.toNat]'(j.isLt)).getLsbD b) :=
  getLsbD_clipZmm ..

/-- R13, R23: a read answers the bits of the storage below `KWIDTH`, and zero above. -/
theorem State.getLsbD_readK (s : State) (j : BitVec 3) (b : Nat) :
    (s.readK j).getLsbD b =
      (decide (b < s.cfg.kWidth.toNat) && (s.k[j.toNat]'(j.isLt)).getLsbD b) :=
  getLsbD_clipK ..

theorem State.getLsbD_readZmm_of_ge {s : State} {j : BitVec 5} {b : Nat}
    (h : s.cfg.maxVL.toNat ≤ b) : (s.readZmm j).getLsbD b = false := by
  simp [State.getLsbD_readZmm, Nat.not_lt.mpr h]

theorem State.getLsbD_readK_of_ge {s : State} {j : BitVec 3} {b : Nat}
    (h : s.cfg.kWidth.toNat ≤ b) : (s.readK j).getLsbD b = false := by
  simp [State.getLsbD_readK, Nat.not_lt.mpr h]

theorem State.getLsbD_readZmm_writeZmm_same {s : State} {b : Nat} (j : BitVec 5) (v : VecReg)
    (h : b < s.cfg.maxVL.toNat) : ((s.writeZmm j v).readZmm j).getLsbD b = v.getLsbD b := by
  simp [h]

/-! ## A whole register at the widths of R7 -/

theorem State.readZmm_eq_storage {s : State} (h : s.cfg.maxVL.toNat = 512) (j : BitVec 5) :
    s.readZmm j = s.zmm[j.toNat]'(j.isLt) := by
  have hw : s.cfg.maxVL = .w512 := (VectorWidth.toNat_eq_512_iff _).mp h
  simp [State.readZmm, hw]

theorem State.readK_eq_storage {s : State} (h : s.cfg.kWidth.toNat = 64) (j : BitVec 3) :
    s.readK j = s.k[j.toNat]'(j.isLt) := by
  have hw : s.cfg.kWidth = .w64 := (MaskWidth.toNat_eq_64_iff _).mp h
  simp [State.readK, hw]

/-! ## The values after reset -/

/-- R7: `MAXVL`, `KWIDTH`, and `NVREG` in each mode. -/
theorem State.reset_register_parameters :
    State.reset.cfg.maxVL.toNat = 512 ∧ State.reset.cfg.kWidth.toNat = 64 ∧
      { State.reset.cfg with mode := .mode64 }.nVReg = 32 ∧
      { State.reset.cfg with mode := .mode32 }.nVReg = 8 :=
  ⟨rfl, rfl, rfl, rfl⟩

/-- Settles O60: each clause is one of the facts above about a bit, or the whole, of a register. -/
theorem registerParameters : Obligations.RegisterParameters :=
  ⟨State.reset_register_parameters, fun _ =>
    ⟨fun _ _ => State.getLsbD_readZmm_of_ge, fun _ _ => State.getLsbD_readK_of_ge,
      State.readZmm_eq_storage, State.readK_eq_storage,
      fun j v _ => State.getLsbD_readZmm_writeZmm_same j v⟩⟩

end Sys2Proof.Machine
end

section
/-! What a decoder that answers an instruction has read: the bytes of its encoding, one after another from the
reader, and that the instruction is well formed (R70 to R97). -/

namespace Sys2Proof

/-! ## A reader that answers given bytes -/

/-- The reader answers the bytes of the list at the offsets from `k` on. -/
def ReadsAt {ε : Type} (rd : Nat → Except ε Byte) (k : Nat) : List Byte → Prop
  | [] => True
  | b :: bs => rd k = .ok b ∧ ReadsAt rd (k + 1) bs

section
variable {ε : Type} {rd : Nat → Except ε Byte} {k : Nat}

@[simp] theorem readsAt_nil : ReadsAt rd k [] := trivial

@[simp] theorem readsAt_cons {b : Byte} {bs : List Byte} :
    ReadsAt rd k (b :: bs) ↔ rd k = .ok b ∧ ReadsAt rd (k + 1) bs := Iff.rfl

theorem readsAt_append {l₁ l₂ : List Byte} :
    ReadsAt rd k (l₁ ++ l₂) ↔ ReadsAt rd k l₁ ∧ ReadsAt rd (k + l₁.length) l₂ := by
  induction l₁ generalizing k with
  | nil => simp
  | cons b bs ih => simp [ih, and_assoc, Nat.add_assoc, Nat.add_comm 1]

theorem readsAt_iff_getElem {l : List Byte} :
    ReadsAt rd k l ↔ ∀ (j : Nat) (h : j < l.length), rd (k + j) = .ok l[j] := by
  induction l generalizing k with
  | nil => simp
  | cons b bs ih =>
    rw [readsAt_cons, ih]
    constructor
    · rintro ⟨hb, hbs⟩ (_ | j) h
      · exact hb
      · simpa [Nat.add_assoc, Nat.add_comm 1] using hbs j (by simpa using h)
    · intro h
      refine ⟨h 0 (by simp), fun j hj => ?_⟩
      have := h (j + 1) (by simpa using hj)
      rwa [List.getElem_cons_succ, ← Nat.add_assoc, Nat.add_right_comm] at this

/-! ## Reading in sequence -/

theorem except_bind_eq_ok {α β : Type} {x : Except ε α} {f : α → Except ε β} {b : β} :
    (x >>= f) = .ok b ↔ ∃ a, x = .ok a ∧ f a = .ok b := by
  cases x <;> simp [bind, Except.bind]

/-- A test that refuses has failed where an instruction is answered. -/
theorem refuse_or_eq_instr {c : Prop} [Decidable c] {r : RejectReason} {x : Except ε Decoded} {i : Instr} :
    (if c then pure (.refused r) else x) = .ok (.instr i) ↔ ¬ c ∧ x = .ok (.instr i) := by
  by_cases h : c <;> simp [h, pure, Except.pure]

/-! ## The bytes before the `62H` (R72) -/

theorem LegacyPrefix.toByte_of_ofByte {b : Byte} {p : LegacyPrefix} (h : LegacyPrefix.ofByte b = some p) :
    p.toByte = b := by
  simpa using List.find?_some h

/-- A scan that met no forbidden byte read the admitted ones, then the byte it stopped at. -/
theorem scanPrefixes_reads {m : Mode} {fuel : Nat} {sc : PrefixScan}
    (h : scanPrefixes m rd fuel k = .ok (some sc)) (hf : sc.forbidden = false) :
    sc.pos = k + sc.legacy.length ∧
      ReadsAt rd k (sc.legacy.map LegacyPrefix.toByte) ∧ rd sc.pos = .ok sc.byte := by
  induction fuel generalizing k sc with
  | zero => simp [scanPrefixes] at h
  | succ fuel ih =>
    rw [scanPrefixes] at h
    split at h
    · cases h
    next b hb =>
    split at h
    next p hp =>
      split at h
      · cases h
      · cases h
      next sc' hsc =>
        cases h
        obtain ⟨hpos, hlegacy, hbyte⟩ := ih hsc hf
        refine ⟨by simp [hpos]; omega, ?_, hbyte⟩
        simpa [LegacyPrefix.toByte_of_ofByte hp, hb] using hlegacy
    next =>
      split at h
      · split at h <;> cases h
        simp at hf
      · cases h
        simp [hb]

/-- A reader that fails at the first byte fails the decoder. -/
theorem decodeFrom_error {m : Mode} {e : ε} (h : rd 0 = .error e) : decodeFrom m rd = .error e := by
  obtain ⟨fuel, hfuel⟩ : ∃ fuel, prefixFuel = fuel + 1 := ⟨18446744073709551615, rfl⟩
  simp [decodeFrom, hfuel, scanPrefixes, h]

/-! ## The displacement and the memory operand (R84 to R88) -/

theorem disp32Bytes_append (b0 b1 b2 b3 : Byte) : disp32Bytes (b3 ++ b2 ++ b1 ++ b0) = [b0, b1, b2, b3] := by
  have h0 : (b3 ++ b2 ++ b1 ++ b0).extractLsb' 0 8 = b0 := by grind
  have h1 : (b3 ++ b2 ++ b1 ++ b0).extractLsb' 8 8 = b1 := by grind
  have h2 : (b3 ++ b2 ++ b1 ++ b0).extractLsb' 16 8 = b2 := by grind
  have h3 : (b3 ++ b2 ++ b1 ++ b0).extractLsb' 24 8 = b3 := by grind
  unfold disp32Bytes
  rw [h0, h1, h2, h3]

theorem readDisp32_reads {d : BitVec 32} (h : readDisp32 rd k = .ok d) : ReadsAt rd k (disp32Bytes d) := by
  simp only [readDisp32, except_bind_eq_ok] at h
  obtain ⟨b0, h0, b1, h1, b2, h2, b3, h3, hd⟩ := h
  cases hd
  simp [disp32Bytes_append, h0, h1, h2, h3]

theorem readDisp_reads {mod : BitVec 2} {d : Disp} (hmod : mod ≠ 3) (h : readDisp rd mod k = .ok d) :
    d.modBits = mod ∧ ReadsAt rd k d.bytes := by
  unfold readDisp at h
  split at h
  next h1 =>
    obtain ⟨b, hb, hd⟩ := except_bind_eq_ok.1 h
    cases hd
    simp_all [Disp.modBits, Disp.bytes]
  split at h
  next h2 =>
    obtain ⟨b, hb, hd⟩ := except_bind_eq_ok.1 h
    cases hd
    simp_all [Disp.modBits, Disp.bytes, readDisp32_reads hb]
  next h1 h2 =>
    cases h
    have h0 : mod = 0 := by
      revert mod; decide
    simp [Disp.modBits, Disp.bytes, h0]

/-- What ModRM and the payload say of operand 3 beside its bytes (R76, R77, R80, R83 to R85). -/
structure Operand3.HasFields (o : Operand3) (mod : BitVec 2) (rm : BitVec 3) (x b : BitVec 1)
    (ll : BitVec 2) (bcast : BitVec 1) : Prop where
  mod : o.modBits = mod
  rm : o.rmBits = rm
  x : o.xBit = x
  b : o.bBit = b
  ll : o.llBits = ll
  bcast : o.bcastBit = bcast

/-- A register number is its extension bit before three bits of ModRM or SIB (R84, R85). -/
@[simp] theorem regNumber_low (e : BitVec 1) (n : BitVec 3) : (e ++ n : BitVec 4).extractLsb' 0 3 = n :=
  BitVec.extractLsb'_append_eq_right

@[simp] theorem regNumber_ext (e : BitVec 1) (n : BitVec 3) : (e ++ n : BitVec 4).extractLsb' 3 1 = e :=
  BitVec.extractLsb'_append_eq_left

theorem byte_of_fields (s : Byte) : s.extractLsb' 6 2 ++ s.extractLsb' 3 3 ++ s.extractLsb' 0 3 = s := by
  grind

/-- Everything a memory operand that is read can be (R84, R85). -/
theorem readMemOperand_cases {mod : BitVec 2} {rm : BitVec 3} {x b : BitVec 1} {mo : MemOperand}
    (h : readMemOperand rd mod rm x b k = .ok mo) :
    (∃ s d, rm = 4 ∧ rd k = .ok s ∧ s.extractLsb' 0 3 = 5 ∧ mod = 0 ∧ readDisp32 rd (k + 1) = .ok d ∧
      mo = .sibNoBase (s.extractLsb' 6 2) (x ++ s.extractLsb' 3 3) b d) ∨
    (∃ s d, rm = 4 ∧ rd k = .ok s ∧ ¬ (s.extractLsb' 0 3 = 5 ∧ mod = 0) ∧ readDisp rd mod (k + 1) = .ok d ∧
      mo = .sib (s.extractLsb' 6 2) (x ++ s.extractLsb' 3 3) (b ++ s.extractLsb' 0 3) d) ∨
    (∃ d, rm = 5 ∧ mod = 0 ∧ readDisp32 rd k = .ok d ∧ mo = .ripDisp x b d) ∨
    (∃ d, rm ≠ 4 ∧ ¬ (rm = 5 ∧ mod = 0) ∧ readDisp rd mod k = .ok d ∧ mo = .base x (b ++ rm) d) := by
  unfold readMemOperand at h
  split at h
  next hrm =>
    obtain ⟨s, hs, h⟩ := except_bind_eq_ok.1 h
    dsimp only at h
    split at h
    next hbs =>
      obtain ⟨d, hd, h⟩ := except_bind_eq_ok.1 h
      cases h
      obtain ⟨hbs, hmod⟩ : s.extractLsb' 0 3 = 5 ∧ mod = 0 := by simpa using hbs
      exact .inl ⟨s, d, by simpa using hrm, hs, hbs, hmod, hd, rfl⟩
    next hbs =>
      obtain ⟨d, hd, h⟩ := except_bind_eq_ok.1 h
      cases h
      exact .inr (.inl ⟨s, d, by simpa using hrm, hs, by simpa using hbs, hd, rfl⟩)
  next hrm =>
  split at h
  next hrip =>
    obtain ⟨d, hd, h⟩ := except_bind_eq_ok.1 h
    cases h
    obtain ⟨hrm, hmod⟩ : rm = 5 ∧ mod = 0 := by simpa using hrip
    exact .inr (.inr (.inl ⟨d, hrm, hmod, hd, rfl⟩))
  next hrip =>
    obtain ⟨d, hd, h⟩ := except_bind_eq_ok.1 h
    cases h
    exact .inr (.inr (.inr ⟨d, by simpa using hrm, by simpa using hrip, hd, rfl⟩))

theorem readMemOperand_reads {mod : BitVec 2} {rm : BitVec 3} {x b : BitVec 1} {mo : MemOperand}
    (hmod : mod ≠ 3) (h : readMemOperand rd mod rm x b k = .ok mo) (ll : BitVec 2) :
    ReadsAt rd k mo.bytes ∧ (Operand3.mem ll mo).HasFields mod rm x b ll 0 := by
  obtain ⟨s, d, rfl, hs, hbs, rfl, hd, rfl⟩ | ⟨s, d, rfl, hs, -, hd, rfl⟩ | ⟨d, rfl, rfl, hd, rfl⟩ |
    ⟨d, -, -, hd, rfl⟩ := readMemOperand_cases h
  case inl =>
    have hsib : s.extractLsb' 6 2 ++ s.extractLsb' 3 3 ++ 5#3 = s := by
      have := byte_of_fields s
      rwa [hbs] at this
    refine ⟨?_, ⟨rfl, rfl, ?_, rfl, rfl, rfl⟩⟩
    · simpa [MemOperand.bytes, hsib, hs] using readDisp32_reads hd
    · simp [Operand3.xBit]
  case inr.inl =>
    obtain ⟨hm, hbytes⟩ := readDisp_reads hmod hd
    refine ⟨?_, ⟨hm, rfl, ?_, ?_, rfl, rfl⟩⟩
    · simpa [MemOperand.bytes, byte_of_fields, hs] using hbytes
    · simp [Operand3.xBit]
    · simp [Operand3.bBit]
  case inr.inr.inl => exact ⟨readDisp32_reads hd, ⟨rfl, rfl, rfl, rfl, rfl, rfl⟩⟩
  case inr.inr.inr =>
    obtain ⟨hm, hbytes⟩ := readDisp_reads hmod hd
    refine ⟨hbytes, ⟨hm, ?_, rfl, ?_, rfl, rfl⟩⟩
    · simp [Operand3.rmBits]
    · simp [Operand3.bBit]

/-- A number whose bits above the lowest three are zero where the mode is `Mode32` can be named (R93). -/
theorem regOk_of_getLsbD {m : Mode} {n : Nat} {v : BitVec n}
    (h : m = .mode32 → ∀ j, 3 ≤ j → v.getLsbD j = false) : regOk m v.toNat = true := by
  cases m with
  | mode64 => rfl
  | mode32 => simpa [regOk] using Nat.lt_pow_two_of_testBit v.toNat fun j hj => h rfl j hj

theorem regOk_regNumber {m : Mode} {e : BitVec 1} (n : BitVec 3) (h : m = .mode32 → e = 0) :
    regOk m (e ++ n : BitVec 4).toNat = true :=
  regOk_of_getLsbD fun hm j hj => by
    have := h hm
    grind

/-- No displacement is read after a base register that needs one only where `mod` is not 00b (R84, R85). -/
theorem readDisp_okFor {mod : BitVec 2} {d : Disp} {r : BitVec 4} (hmod : mod ≠ 3)
    (h : readDisp rd mod k = .ok d) (hr : ¬ (r.extractLsb' 0 3 = 5 ∧ mod = 0)) : d.okFor r = true := by
  obtain ⟨rfl, -⟩ := readDisp_reads hmod h
  cases d with
  | none => simpa [Disp.okFor, Disp.modBits] using hr
  | disp8 d => rfl
  | disp32 d => rfl

theorem readMemOperand_wf {m : Mode} {mod : BitVec 2} {rm : BitVec 3} {x b : BitVec 1} {mo : MemOperand}
    (hmod : mod ≠ 3) (h : readMemOperand rd mod rm x b k = .ok mo) (hext : m = .mode32 → x = 0 ∧ b = 0) :
    mo.wf m = true := by
  have hx (n : BitVec 3) : regOk m (x ++ n : BitVec 4).toNat = true := regOk_regNumber n fun hm => (hext hm).1
  have hb (n : BitVec 3) : regOk m (b ++ n : BitVec 4).toNat = true := regOk_regNumber n fun hm => (hext hm).2
  have hmode : m = .mode64 ∨ (x = 0 ∧ b = 0) := by
    cases m with
    | mode64 => exact .inl rfl
    | mode32 => exact .inr (hext rfl)
  obtain ⟨s, d, -, -, -, -, -, rfl⟩ | ⟨s, d, -, -, hbs, hd, rfl⟩ | ⟨d, -, -, -, rfl⟩ |
    ⟨d, hrm, hrip, hd, rfl⟩ := readMemOperand_cases h
  case inl => simpa [MemOperand.wf, hx] using hmode.imp_right And.right
  case inr.inl =>
    have hok : d.okFor (b ++ s.extractLsb' 0 3) = true := readDisp_okFor hmod hd (by simpa using hbs)
    simp [MemOperand.wf, hx, hb, hok]
  case inr.inr.inl => simpa [MemOperand.wf] using hmode
  case inr.inr.inr =>
    have hok : d.okFor (b ++ rm) = true := readDisp_okFor hmod hd (by simpa using hrip)
    have hrm : rm ≠ 4#3 := hrm
    simpa [MemOperand.wf, hb, hok, hrm] using hmode.imp_right And.left

/-! ## The bytes after the `62H` (R73 to R83) -/

/-- The bits of the payload that select the six instructions and, in `Mode32`, the registers 0 to 7 (R74, R75,
R93). -/
structure EvexHead.Selects (m : Mode) (h : EvexHead) : Prop where
  map : h.p0.extractLsb' 0 3 = 6#3
  pp : h.p1.extractLsb' 0 2 = 1#2
  w : h.p1.getLsbD 7 = false
  ext0 : m = .mode32 → h.p0.extractLsb' 4 4 = 0xF#4
  ext1 : m = .mode32 → h.p1.getLsbD 6 = true
  ext2 : m = .mode32 → h.p2.getLsbD 3 = true

theorem decodeEvex_instr {m : Mode} {sc : PrefixScan} {i : Instr} (h : decodeEvex m rd sc = .ok (.instr i)) :
    sc.byte = 0x62 ∧ legacyOk m sc.legacy = true ∧ ∃ (hd : EvexHead) (mk : Operands → Instr),
      hd.Selects m ∧ ReadsAt rd (sc.pos + 1) [hd.p0, hd.p1, hd.p2, hd.opc, hd.modrm] ∧
      opcodeTable.lookup hd.opc = some mk ∧ decodeOperand3 rd sc hd mk = .ok (.instr i) := by
  unfold decodeEvex at h
  simp only [refuse_or_eq_instr, except_bind_eq_ok] at h
  obtain ⟨hbyte, hseg, h67, p0, h0, hext0, hmap, p1, h1, hw, hpp, hext1, p2, h2, hext2, opc, h3, h⟩ := h
  split at h
  · cases h
  next mk hmk =>
    obtain ⟨modrm, h4, h⟩ := except_bind_eq_ok.1 h
    refine ⟨by simpa using hbyte, ?_, ⟨p0, p1, p2, opc, modrm⟩, mk, ?_, ?_, hmk, h⟩
    · cases m <;> simp_all [legacyOk]
    · constructor <;> simp_all
    · simp [h0, h1, h2, h3, h4]

theorem opcode_of_lookup {opc : Byte} {mk : Operands → Instr} (h : opcodeTable.lookup opc = some mk)
    (o : Operands) : (mk o).opcode = opc ∧ (mk o).ops = o := by
  obtain ⟨l₁, l₂, hl, -⟩ := List.lookup_eq_some_iff.1 h
  have hmem : (opc, mk) ∈ opcodeTable := by simp [hl]
  simp only [opcodeTable, List.mem_cons, Prod.mk.injEq, List.not_mem_nil, or_false] at hmem
  obtain ⟨rfl, rfl⟩ | ⟨rfl, rfl⟩ | ⟨rfl, rfl⟩ | ⟨rfl, rfl⟩ | ⟨rfl, rfl⟩ | ⟨rfl, rfl⟩ := hmem <;>
    exact ⟨rfl, rfl⟩

theorem verdict_instr {sc : PrefixScan} {hd : EvexHead} {mk : Operands → Instr} {tail : Nat}
    {src3 : Option Operand3} {i : Instr} (h : verdict sc hd mk tail src3 = .instr i) :
    sc.pos + 6 + tail ≤ 15 ∧ sc.forbidden = false ∧ hd.fixedBitsOk = true ∧
      ∃ mask op3, hd.mask = some mask ∧ src3 = some op3 ∧ i = mk ⟨sc.legacy, hd.dest, hd.src2, op3, mask⟩ := by
  unfold verdict at h
  split at h
  · cases h
  next hlen =>
  split at h
  · cases h
  next hud =>
  split at h
  next mask op3 hmask =>
    obtain ⟨hf, hfix⟩ : sc.forbidden = false ∧ hd.fixedBitsOk = true := by simpa using hud
    exact ⟨by omega, hf, hfix, mask, op3, hmask, rfl, by simpa using h.symm⟩
  · cases h

theorem WriteMask.ofBits_some {z : Bool} {aaa : BitVec 3} {mask : WriteMask}
    (h : WriteMask.ofBits z aaa = some mask) : mask.zBit = BitVec.ofBool z ∧ mask.aaaBits = aaa := by
  unfold WriteMask.ofBits at h
  split at h
  next hr =>
    have haaa : aaa = 0 := by
      revert aaa
      decide
    cases z <;> cases h
    exact ⟨rfl, haaa.symm⟩
  next r hr =>
    have haaa : r.toBits = aaa := by simpa using List.find?_some hr
    cases z <;> cases h <;> exact ⟨rfl, haaa⟩

theorem RoundMode.toBits_ofBits (c : BitVec 2) : (RoundMode.ofBits c).toBits = c := by
  revert c
  decide

namespace EvexHead
variable {m : Mode} {hd : EvexHead}

theorem dest_low : hd.dest.extractLsb' 0 3 = hd.modrm.extractLsb' 3 3 := by grind [EvexHead.dest]
theorem dest_bit3 : hd.dest.extractLsb' 3 1 = ~~~(hd.p0.extractLsb' 7 1) := by grind [EvexHead.dest]
theorem dest_bit4 : hd.dest.extractLsb' 4 1 = ~~~(hd.p0.extractLsb' 4 1) := by grind [EvexHead.dest]
theorem src2_low : hd.src2.extractLsb' 0 4 = ~~~(hd.p1.extractLsb' 3 4) := by grind [EvexHead.src2]
theorem src2_bit4 : hd.src2.extractLsb' 4 1 = ~~~(hd.p2.extractLsb' 3 1) := by grind [EvexHead.src2]
theorem src3_low : hd.src3.extractLsb' 0 3 = hd.modrm.extractLsb' 0 3 := by grind [EvexHead.src3]
theorem src3_bit3 : hd.src3.extractLsb' 3 1 = hd.b := by grind [EvexHead.src3]
theorem src3_bit4 : hd.src3.extractLsb' 4 1 = hd.x := by grind [EvexHead.src3]

/-! In `Mode32` the extension bits are those of the registers 0 to 7 (R93). -/

theorem Selects.p0_ext (hs : hd.Selects m) (hm : m = .mode32) {j : Nat} (h4 : 4 ≤ j) (h8 : j < 8) :
    hd.p0.getLsbD j = true := by
  have hbit : (hd.p0.extractLsb' 4 4).getLsbD (j - 4) = (0xF#4).getLsbD (j - 4) := by rw [hs.ext0 hm]
  obtain rfl | rfl | rfl | rfl : j = 4 ∨ j = 5 ∨ j = 6 ∨ j = 7 := by omega
  all_goals simpa using hbit

theorem Selects.x_b (hs : hd.Selects m) (hm : m = .mode32) : hd.x = 0 ∧ hd.b = 0 := by
  have h5 := hs.p0_ext hm (j := 5) (by omega) (by omega)
  have h6 := hs.p0_ext hm (j := 6) (by omega) (by omega)
  unfold EvexHead.x EvexHead.b
  constructor <;> grind

theorem Selects.regOk_dest (hs : hd.Selects m) : regOk m hd.dest.toNat = true :=
  regOk_of_getLsbD fun hm j hj => by
    have h4 := hs.p0_ext hm (j := 4) (by omega) (by omega)
    have h7 := hs.p0_ext hm (j := 7) (by omega) (by omega)
    unfold EvexHead.dest
    grind

theorem Selects.regOk_src2 (hs : hd.Selects m) : regOk m hd.src2.toNat = true :=
  regOk_of_getLsbD fun hm j hj => by
    have h1 := hs.ext1 hm
    have h2 := hs.ext2 hm
    unfold EvexHead.src2
    grind

theorem Selects.regOk_src3 (hs : hd.Selects m) : regOk m hd.src3.toNat = true :=
  regOk_of_getLsbD fun hm j hj => by
    have := hs.x_b hm
    unfold EvexHead.src3
    grind

end EvexHead

/-- Everything an operand 3 that is decoded with its instruction can be (R76, R83 to R85). -/
theorem decodeOperand3_instr {sc : PrefixScan} {hd : EvexHead} {mk : Operands → Instr} {i : Instr}
    (h : decodeOperand3 rd sc hd mk = .ok (.instr i)) :
    sc.forbidden = false ∧ hd.fixedBitsOk = true ∧ ∃ mask op3, hd.mask = some mask ∧
      i = mk ⟨sc.legacy, hd.dest, hd.src2, op3, mask⟩ ∧ sc.pos + 6 + op3.length ≤ 15 ∧
      ReadsAt rd (sc.pos + 6) op3.bytes ∧
      op3.HasFields hd.mod (hd.modrm.extractLsb' 0 3) hd.x hd.b hd.ll (BitVec.ofBool hd.bcast) ∧
      ∀ m, hd.Selects m → op3.wf m = true := by
  unfold decodeOperand3 at h
  split at h
  next hmod =>
    obtain ⟨hlen, hf, hfix, mask, op3, hmask, hop, rfl⟩ := verdict_instr (Except.ok.inj h)
    cases hop
    refine ⟨hf, hfix, mask, _, hmask, rfl, hlen, trivial, ?_, ?_⟩
    · have hmod : hd.mod = 3 := by simpa using hmod
      cases hb : hd.bcast <;> exact ⟨hmod.symm, EvexHead.src3_low, EvexHead.src3_bit4, EvexHead.src3_bit3,
        by simp [Operand3.llBits, RoundMode.toBits_ofBits], rfl⟩
    · exact fun m hs => hs.regOk_src3
  next hmod =>
    obtain ⟨mo, hmo, h⟩ := except_bind_eq_ok.1 h
    obtain ⟨hlen, hf, hfix, mask, op3, hmask, hop, rfl⟩ := verdict_instr (Except.ok.inj h)
    obtain ⟨hb, rfl⟩ : hd.bcast = false ∧ Operand3.mem hd.ll mo = op3 := by simpa using hop
    have hmod : hd.mod ≠ 3 := by simpa using hmod
    obtain ⟨hbytes, hfields⟩ := readMemOperand_reads hmod hmo hd.ll
    refine ⟨hf, hfix, mask, _, hmask, rfl, hlen, hbytes, by simpa [hb] using hfields, fun m hs => ?_⟩
    exact readMemOperand_wf hmod hmo hs.x_b

/-! ## The whole instruction -/

/-- Operands whose fields are those of the bytes read are encoded in them (R73 to R83). -/
theorem encode_payload {m : Mode} {hd : EvexHead} {o : Operands} (hs : hd.Selects m)
    (hfix : hd.fixedBitsOk = true) (hdest : o.dest = hd.dest) (hsrc2 : o.src2 = hd.src2)
    (hmask : hd.mask = some o.mask)
    (h3 : o.src3.HasFields hd.mod (hd.modrm.extractLsb' 0 3) hd.x hd.b hd.ll (BitVec.ofBool hd.bcast)) :
    o.p0 = hd.p0 ∧ o.p1 = hd.p1 ∧ o.p2 = hd.p2 ∧ o.modrm = hd.modrm := by
  obtain ⟨hmod, hrm, hx, hb, hll, hbcast⟩ := h3
  obtain ⟨hz, haaa⟩ := WriteMask.ofBits_some hmask
  obtain ⟨hp0, hp1⟩ : hd.p0.getLsbD 3 = false ∧ hd.p1.getLsbD 2 = true := by
    simpa [EvexHead.fixedBitsOk] using hfix
  refine ⟨?_, ?_, ?_, ?_⟩
  · have h6 : hd.p0.extractLsb' 0 4 = 6#4 := by
      have := hs.map
      generalize hd.p0 = p at hp0 this
      revert p
      decide
    rw [Operands.p0, hdest, hx, hb, EvexHead.dest_bit3, EvexHead.dest_bit4, ← h6]
    grind [EvexHead.x, EvexHead.b]
  · have h5 : hd.p1.extractLsb' 0 3 = 5#3 := by
      have := hs.pp
      generalize hd.p1 = p at hp1 this
      revert p
      decide
    have h7 : hd.p1.extractLsb' 7 1 = 0#1 := by
      have := hs.w
      grind
    rw [Operands.p1, hsrc2, EvexHead.src2_low, ← h5, ← h7]
    grind
  · rw [Operands.p2, hsrc2, hz, haaa, hll, hbcast, EvexHead.src2_bit4]
    grind [EvexHead.ll, EvexHead.bcast]
  · rw [Operands.modrm, hdest, hmod, hrm, EvexHead.dest_low]
    grind [EvexHead.mod]

/-- R70 to R97: an instruction that is decoded from a reader is well formed, and its encoding is what was read. -/
theorem decodeFrom_instr {m : Mode} {i : Instr} (h : decodeFrom m rd = .ok (.instr i)) :
    i.wf m = true ∧ ReadsAt rd 0 (encode i) := by
  unfold decodeFrom at h
  split at h
  · cases h
  · cases h
  next sc hsc =>
  obtain ⟨hbyte, hlegacy, hd, mk, hs, hhead, hmk, h⟩ := decodeEvex_instr h
  obtain ⟨hf, hfix, mask, op3, hmask, rfl, hlen, hop3, hfields, hwf⟩ := decodeOperand3_instr h
  obtain ⟨hpos, hpre, h62⟩ := scanPrefixes_reads hsc hf
  obtain ⟨hopc, hops⟩ := opcode_of_lookup hmk ⟨sc.legacy, hd.dest, hd.src2, op3, mask⟩
  obtain ⟨hp0, hp1, hp2, hmodrm⟩ :=
    encode_payload (o := ⟨sc.legacy, hd.dest, hd.src2, op3, mask⟩) hs hfix rfl rfl hmask hfields
  have hpos : sc.pos = sc.legacy.length := by simpa using hpos
  constructor
  · have hlen : sc.legacy.length + 6 + op3.length ≤ 15 := hpos ▸ hlen
    simp [Instr.wf, hops, Operands.wf, hlegacy, hs.regOk_dest, hs.regOk_src2, hwf m hs, Operands.length, hlen]
  · rw [hpos] at hhead hop3 h62
    simp only [encode, hops, hopc, hp0, hp1, hp2, hmodrm, readsAt_append, List.length_map, Nat.zero_add]
    refine ⟨hpre, ?_⟩
    simp_all [Nat.add_assoc]

end

end Sys2Proof
end

section
/-! What a step writes and what it leaves unchanged, faults included, and what a run keeps (R20, R27, R32, R110,
R211). -/

namespace Sys2Proof.Machine

/-! ## Reset (R39) -/

/-- Settles O15: every clause is a field of the reset state. -/
theorem resetValues : Obligations.ResetValues := by
  have hzmm (j) : State.reset.readZmm j = 0 := by simp [State.readZmm, State.reset, Config.reset]
  have hk (j) : State.reset.readK j = 0 := by simp [State.readK, State.reset, Config.reset]
  have hgpr (j) : State.reset.readGpr j = 0 := by simp [State.readGpr, State.reset]
  exact ⟨hzmm, hk, fun j _ => hgpr j, rfl, rfl, rfl, rfl, rfl, rfl, rfl⟩

/-- Settles O19: the memory is empty and the other clauses are the values of the registers. -/
theorem resetHasInv : Obligations.ResetHasInv :=
  ⟨State.reset_mem_wf, by decide⟩

/-! ## What the arithmetic is given (R30, R114) -/

/-- `MXCSR.RC` is bits 14 and 13. -/
theorem mxcsrRC_bits (m : BitVec 32) :
    mxcsrRC m = RoundMode.ofBits (BitVec.ofBool (m.getLsbD 14) ++ BitVec.ofBool (m.getLsbD 13)) := by
  have h : m.extractLsb' 13 2 = BitVec.ofBool (m.getLsbD 14) ++ BitVec.ofBool (m.getLsbD 13) := by grind
  rw [mxcsrRC, h]

/-- Settles O36: the masks and control bits are `MXCSR`'s by definition; the four codes are the four cases. -/
theorem roundingControl : Obligations.RoundingControl := by
  refine ⟨fun s op3 => ⟨rfl, rfl, rfl, rfl, rfl, rfl, rfl, rfl⟩, fun s s3 rm ll m => ⟨⟨rfl, rfl⟩, ?_⟩⟩
  intro op3 hop
  have hform : (s.fmsEnv op3).sae = false ∧ (s.fmsEnv op3).rm = mxcsrRC s.mxcsr := by
    obtain rfl | rfl := hop <;> exact ⟨rfl, rfl⟩
  refine ⟨hform.1, ?_⟩
  rw [hform.2, mxcsrRC_bits]
  cases s.mxcsr.getLsbD 14 <;> cases s.mxcsr.getLsbD 13 <;> rfl

/-! ## What an execution can leave -/

/-- An instruction that completes has committed to its destination, with flags, and may have consumed choices
(R110 step 8, R115). -/
theorem exec_next_commit {i : Instr} {s t : State} (h : exec i s = .next t) :
    ∃ low f n, t = (s.commit i.ops.dest low f i.length).setDraws n := by
  rw [exec_eq_execFms] at h
  obtain ⟨-, -, -, ⟨-, b, r, f, -, -, rfl⟩ | ⟨-, n, -, rfl⟩⟩ := execFms_next h
  · exact ⟨r, f, s.draws, rfl⟩
  · exact ⟨_, _, n, rfl⟩

theorem step_next_commit {s t : State} (h : step s = .next t) :
    ∃ i low f n, t = (s.commit (Instr.ops i).dest low f i.length).setDraws n := by
  obtain ⟨-, i, -, -, hi⟩ := step_next h
  exact ⟨i, exec_next_commit hi⟩

/-- An instruction that faults has written nothing but flags (R211). -/
theorem exec_fault_final {i : Instr} {s : State} {φ : Fault} (h : exec i s = .fault φ) :
    φ.final = s ∨ ∃ f, φ.final = s.signal f := by
  rw [exec_eq_execFms] at h
  obtain h | ⟨-, b, f, -, -, rfl⟩ := execFms_fault h
  · exact .inl h
  · exact .inr ⟨f, by simp⟩

/-- A step that faults has written nothing but flags (R211). -/
theorem step_fault_final {s : State} {φ : Fault} (h : step s = .fault φ) :
    φ.final = s ∨ ∃ f, φ.final = s.signal f := by
  unfold step fetchAndRun at h
  split at h
  · cases h
  split at h
  next e _ => cases h; simp
  next => cases h
  next => cases h; simp
  next => cases h; simp
  next i _ =>
    split at h
    · exact exec_fault_final h
    · cases h

/-! ## The flags (R30, R32) -/

theorem FpFlags.getLsbD_toBits (f : FpFlags) :
    f.toBits.getLsbD 0 = f.ie ∧ f.toBits.getLsbD 1 = f.de ∧ f.toBits.getLsbD 2 = false ∧
      f.toBits.getLsbD 3 = f.oe ∧ f.toBits.getLsbD 4 = f.ue ∧ f.toBits.getLsbD 5 = f.pe := by
  obtain ⟨ie, de, oe, ue, pe⟩ := f
  revert ie de oe ue pe
  decide

/-- `ZE` is never signalled (R116, R209). -/
theorem orFlags_ze (m : BitVec 32) (f : FpFlags) : (orFlags m f).getLsbD 2 = m.getLsbD 2 := by
  obtain ⟨-, -, hze, -⟩ := f.getLsbD_toBits
  rw [orFlags, BitVec.getLsbD_or, BitVec.getLsbD_setWidth, hze]
  simp

/-- Under embedded rounding no flag is returned (R154). -/
theorem fms16_flags_of_sae {e : FmsEnv} (h : e.sae = true) (neg : Bool) (x y z : Half) :
    (fms16 e neg x y z).flags = FpFlags.empty := by
  simp only [fms16, h, if_true]
  cases fmsSteps e FpMasks.all neg x y z <;> rfl

/-- R154: embedded rounding returns no flags. -/
theorem State.outcome_flags_of_embedded {i : Instr} {s3 : BitVec 5} {rm : RoundMode}
    (h : i.ops.src3 = .reg s3 (.embedded rm)) (s : State) (b : Half) :
    (s.outcome i b).flags = FpFlags.empty := by
  have hsae : (s.fmsEnv i.ops.src3).sae = true := by rw [h]; rfl
  rw [outcome_eq_arithmetic]
  exact fms16_flags_of_sae hsae ..

/-- What an instruction that completes did to `MXCSR`: with the mask bit 1 it signalled the flags of its arithmetic,
with the mask bit 0 nothing (R32, R113). -/
theorem exec_next_mxcsr {i : Instr} {s t : State} (h : exec i s = .next t) :
    (s.maskBit i.ops.mask = true ∧ ∃ b r f, s.readSrc3 i.ops = .ok b ∧ s.outcome i b = .result r f ∧
      t.mxcsr = orFlags s.mxcsr f) ∨
    (s.maskBit i.ops.mask = false ∧ t.mxcsr = s.mxcsr) := by
  rw [exec_eq_execFms] at h
  obtain ⟨-, -, -, ⟨hm, b, r, f, hb, hr, rfl⟩ | ⟨hm, n, -, rfl⟩⟩ := execFms_next h
  · exact .inl ⟨hm, b, r, f, hb, (outcome_eq_arithmetic i s b).trans hr, by simp⟩
  · exact .inr ⟨hm, by simp⟩

/-- Settles O31: the two cases of `exec_next_mxcsr`, and that embedded rounding returns no flags. -/
theorem mxcsrWrittenOnlyByOr : Obligations.MxcsrWrittenOnlyByOr := by
  refine ⟨FpFlags.getLsbD_toBits, fun i s t h => ?_⟩
  obtain ⟨hm, b, r, f, hb, hr, hmx⟩ | ⟨hm, hmx⟩ := exec_next_mxcsr h
  · rw [hmx]
    refine ⟨orFlags_control _ _, fun _ => orFlags_sticky _ _, ?_, by simp [hm],
      fun _ => ⟨b, r, f, hb, hr, orFlags_flags _ _⟩⟩
    rintro ⟨s3, rm, he⟩
    have hf : f = FpFlags.empty := by
      have := State.outcome_flags_of_embedded he s b
      rwa [hr] at this
    rw [hf, orFlags_empty]
  · rw [hmx]
    exact ⟨rfl, fun _ => id, fun _ => rfl, fun _ => rfl, by simp [hm]⟩

/-! ## The mask bit 0 (R60, R113) -/

theorem State.maskedOffSrc3_of_no_access {s : State} {ops : Operands}
    (h : ∀ ll m, ops.src3 = .mem ll m → s.accessFault ops m = none ∨ s.cfg.maskedOffMem = .suppress) :
    s.maskedOffSrc3 ops = .ok s.draws := by
  obtain hok | ⟨ll, m, e, h3, hfault, hcases⟩ := s.maskedOffSrc3_cases ops
  · exact hok
  · obtain hnone | hsup := h ll m h3
    · simp [hnone] at hfault
    · simp [hsup] at hcases

/-- Enabled and with the mask bit 0, an instruction whose operand 3 raises nothing completes without arithmetic. -/
theorem exec_maskedOff {i : Instr} {s : State} {n : Nat} (he : s.Enabled)
    (hl : s.lengthUd i.ops.src3 = false) (hm : s.maskBit i.ops.mask = false)
    (hn : s.maskedOffSrc3 i.ops = .ok n) :
    exec i s = .next ((s.commit i.ops.dest (maskedLow i.ops.mask (s.readHalf i.ops.dest)) FpFlags.empty
      i.length).setDraws n) := by
  simp [exec_eq_execFms, execFms, he.1, he.2, hl, hm, hn, Instr.length]

/-- Settles O29: the mask bit by the number of each opmask register, and the commit of `exec_maskedOff`. -/
theorem maskedOffCompletes : Obligations.MaskedOffCompletes := by
  constructor
  · intro s
    refine ⟨rfl, fun p hp => ?_⟩
    have hbits : p.1.toBits = p.2 := by
      revert p
      decide
    exact hbits ▸ ⟨rfl, rfl⟩
  · intro i s he hl hm hacc
    refine ⟨_, exec_maskedOff he hl hm (State.maskedOffSrc3_of_no_access hacc), by simp,
      fun r hr => ?_, fun r hr => ?_⟩ <;> rw [hr] <;> exact completed_commit_setDraws ..

/-! ## rip (R27) -/

theorem State.toNat_nextRip_mode64 {s : State} (h : s.cfg.mode = .mode64) (len : Nat) :
    (s.nextRip len).toNat = (s.rip.toNat + len) % 2 ^ 64 := by
  simp [State.nextRip, h]

theorem State.toNat_nextRip_mode32 {s : State} (h : s.cfg.mode = .mode32) (len : Nat) :
    (s.nextRip len).toNat = (s.rip.toNat + len) % 2 ^ 32 := by
  simp [State.nextRip, h]
  omega

/-! ## The invariant (R26, R34, R57, R230) -/

theorem State.admissible_iff {s : State} :
    s.admissible = true ↔ s.mxcsr.extractLsb' 16 16 = 0 ∧ s.sys.rflags.getLsbD 8 = false ∧
      (s.cfg.mode = .mode32 → s.rip.extractLsb' 32 32 = 0 ∧ s.sys.fsBase = 0 ∧ s.sys.gsBase = 0) := by
  cases hm : s.cfg.mode <;> simp [State.admissible, hm, and_assoc]

theorem orFlags_reserved (m : BitVec 32) (f : FpFlags) :
    (orFlags m f).extractLsb' 16 16 = m.extractLsb' 16 16 := by
  apply BitVec.eq_of_getLsbD_eq
  intro i hi
  simp only [BitVec.getLsbD_extractLsb', hi, decide_true, Bool.true_and]
  exact orFlags_high m f (by omega)

theorem State.admissible_signal {s : State} (h : s.admissible = true) (f : FpFlags) :
    (s.signal f).admissible = true := by
  rw [State.admissible_iff] at h ⊢
  simpa [orFlags_reserved] using h

theorem State.admissible_commit {s : State} (h : s.admissible = true) (d : BitVec 5) (low : Half)
    (f : FpFlags) (len : Nat) : (s.commit d low f len).admissible = true := by
  rw [State.admissible_iff] at h ⊢
  obtain ⟨hmx, htf, h32⟩ := h
  refine ⟨by simpa [orFlags_reserved] using hmx, htf, fun hm => ?_⟩
  obtain ⟨-, hfs, hgs⟩ := h32 hm
  refine ⟨?_, hfs, hgs⟩
  have hrip := s.toNat_nextRip_mode32 hm len
  apply BitVec.eq_of_toNat_eq
  rw [State.commit_rip, BitVec.extractLsb'_toNat, hrip, Nat.shiftRight_eq_div_pow,
    Nat.div_eq_of_lt (Nat.mod_lt _ (by decide))]
  rfl

theorem step_next_admissible {s t : State} (h : step s = .next t) : t.admissible = true := by
  obtain ⟨ha, -⟩ := step_next h
  obtain ⟨i, low, f, n, rfl⟩ := step_next_commit h
  exact State.admissible_commit ha ..

/-- Settles O20: a next state is a commit and the state at a fault at most a signal, and both keep each clause. -/
theorem stepKeepsInv : Obligations.StepKeepsInv := by
  rintro s ⟨hmem, hadm⟩
  constructor
  · intro t h
    obtain ⟨i, low, f, n, rfl⟩ := step_next_commit h
    exact ⟨hmem, State.admissible_commit hadm ..⟩
  · intro φ h
    obtain hφ | ⟨f, hφ⟩ := step_fault_final h
    · exact hφ ▸ ⟨hmem, hadm⟩
    · exact hφ ▸ ⟨hmem, State.admissible_signal hadm f⟩

/-- R205 (b): where the first fetch is at a non-canonical address, the step is #GP(0). -/
theorem step_of_not_canonical {s : State} (ha : s.admissible = true) (hc : s.canonicalAt s.rip = false) :
    step s = .fault (.gp s) := by
  have hfetch : s.fetchByte 0 = .error .gp := by simp [State.fetchByte, hc]
  simp [step, fetchAndRun, ha, decodeFrom_error hfetch, Exception.toFault]

/-- Settles O13: `rip` after a commit, at a fault, and where the next fetch is not canonical. -/
theorem ripRule : Obligations.RipRule := by
  refine ⟨fun i s t h => ?_, fun i s φ h => ?_, fun s t h h64 hc => ?_⟩
  · obtain ⟨low, f, n, rfl⟩ := exec_next_commit h
    exact ⟨fun hm => s.toNat_nextRip_mode64 hm _, fun hm => s.toNat_nextRip_mode32 hm _⟩
  · obtain hφ | ⟨f, hφ⟩ := exec_fault_final h <;> rw [hφ]
    rfl
  · have hcfg : t.cfg = s.cfg := by
      obtain ⟨i, low, f, n, rfl⟩ := step_next_commit h
      rfl
    exact step_of_not_canonical (step_next_admissible h) (by simpa [State.canonicalAt, hcfg, h64] using hc)

/-! ## What a step and a run leave unchanged (R20, R22, R110) -/

/-- Settles O10: the decoder read the instruction at `rip`, and its completion leaves the rest as `Completed` says. -/
theorem stepFrame : Obligations.StepFrame := by
  intro s t h
  obtain ⟨-, i, hdec, -, hi⟩ := step_next h
  obtain ⟨hwf, hbytes⟩ := decodeFrom_instr hdec
  obtain ⟨low, f, n, rfl⟩ := exec_next_commit hi
  have hc := completed_commit_setDraws s i.ops.dest low f i.length n
  exact ⟨i, hwf, by simpa using readsAt_iff_getElem.1 hbytes, hi, hc.others, hc.kept, hc.zeroed, hc.k, hc.gpr,
    hc.mem, hc.control, hc.sys, hc.cfg⟩

/-- The state `t` has what no instruction writes as in `s`, and every flag that is set in `s` (R20, R32, R36). -/
structure State.Keeps (s t : State) : Prop where
  k : ∀ j, t.readK j = s.readK j
  gpr : ∀ j, t.readGpr j = s.readGpr j
  mem : ∀ a, t.readByte a = s.readByte a
  control : t.mxcsr.extractLsb' 6 26 = s.mxcsr.extractLsb' 6 26
  ze : t.mxcsr.getLsbD 2 = s.mxcsr.getLsbD 2
  sticky : ∀ b, s.mxcsr.getLsbD b = true → t.mxcsr.getLsbD b = true
  sys : t.sys = s.sys
  cfg : t.cfg = s.cfg

theorem State.Keeps.refl (s : State) : s.Keeps s :=
  ⟨fun _ => rfl, fun _ => rfl, fun _ => rfl, rfl, rfl, fun _ => id, rfl, rfl⟩

theorem State.Keeps.trans {s t u : State} (h : s.Keeps t) (h' : t.Keeps u) : s.Keeps u where
  k := fun j => (h'.k j).trans (h.k j)
  gpr := fun j => (h'.gpr j).trans (h.gpr j)
  mem := fun a => (h'.mem a).trans (h.mem a)
  control := h'.control.trans h.control
  ze := h'.ze.trans h.ze
  sticky := fun b hb => h'.sticky b (h.sticky b hb)
  sys := h'.sys.trans h.sys
  cfg := h'.cfg.trans h.cfg

theorem step_keeps {s t : State} (h : step s = .next t) : s.Keeps t := by
  obtain ⟨i, low, f, n, rfl⟩ := step_next_commit h
  have hc := completed_commit_setDraws s i.ops.dest low f i.length n
  exact ⟨hc.k, hc.gpr, hc.mem, hc.control, orFlags_ze _ _, fun _ => orFlags_sticky _ _, hc.sys, hc.cfg⟩

theorem run_keeps {n : Nat} {s t : State} (h : run n s = .running t ∨ run n s = .ended t) : s.Keeps t := by
  induction n generalizing s with
  | zero =>
    have hst : s = t := by simpa [run] using h
    exact hst ▸ .refl s
  | succ n ih =>
    cases hs : step s with
    | next u =>
      have hu := step_keeps hs
      by_cases hend : u.rip = u.cfg.codeEnd
      · have htu : u = t := by simpa [run, hs, hend] using h
        exact htu ▸ hu
      · exact hu.trans (ih (by simpa [run, hs, hend] using h))
    | fault φ => simp [run, hs] at h
    | refused r => simp [run, hs] at h

/-- Settles O11: each clause is one of what `run_keeps` says, by induction on the number of steps. -/
theorem runFrame : Obligations.RunFrame := by
  intro n s t h
  obtain ⟨hk, hgpr, hmem, hcontrol, hze, hsticky, hsys, hcfg⟩ := run_keeps h
  exact ⟨hk, hgpr, hmem, hcontrol, hze, hsticky, hsys, hcfg⟩

end Sys2Proof.Machine
end

section
/-! The memory operand: its effective and its linear address (R57, R84 to R89), and a masked-off access that
would fault (R60). -/

namespace Sys2Proof.Machine

/-! ## The effective address under the 64-bit address size (R84 to R88) -/

@[simp] theorem addressSum_false (v : Addr) : addressSum false v = v := rfl

@[simp] theorem State.addressReg_false (s : State) (i : BitVec 4) : s.addressReg false i = s.readGpr i := rfl

/-- R85: the scale `ss` is a factor `2^ss`, and the number 0100b is no index. -/
theorem State.indexTerm_false (s : State) (ss : BitVec 2) (i : BitVec 4) :
    s.indexTerm false ss i = if i = 4 then 0 else s.readGpr i * 2 ^ ss.toNat := by
  have htwo : (2 : Addr) ^ ss.toNat = BitVec.twoPow 64 ss.toNat :=
    BitVec.eq_of_toNat_eq (by simp)
  rw [htwo, ← BitVec.shiftLeft_eq_mul_twoPow]
  rfl

theorem State.effectiveAddress_base (s : State) (next : Addr) (x : BitVec 1) (b : BitVec 4) (d : Disp) :
    s.effectiveAddress false next (.base x b d) = s.readGpr b + Disp.offset d := rfl

theorem State.effectiveAddress_sib (s : State) (next : Addr) (ss : BitVec 2) (i b : BitVec 4) (d : Disp) :
    s.effectiveAddress false next (.sib ss i b d) =
      s.readGpr b + s.indexTerm false ss i + Disp.offset d := rfl

theorem State.effectiveAddress_sibNoBase (s : State) (next : Addr) (ss : BitVec 2) (i : BitVec 4)
    (bx : BitVec 1) (d : BitVec 32) :
    s.effectiveAddress false next (.sibNoBase ss i bx d) = s.indexTerm false ss i + d.signExtend 64 := rfl

/-! ## The form without base or SIB, and the use of `next_rip` (R86) -/

theorem State.effectiveAddress_ripDisp_mode64 {s : State} (h : s.cfg.mode = .mode64) (next : Addr)
    (x bx : BitVec 1) (d : BitVec 32) :
    s.effectiveAddress false next (.ripDisp x bx d) = next + d.signExtend 64 := by
  simp [State.effectiveAddress, h]

/-- R86, R89: of a sign-extended `disp32` the 32-bit address size keeps the `disp32`. -/
theorem setWidth_signExtend_disp32 (d : BitVec 32) : (d.signExtend 64).setWidth 32 = d := by
  grind

theorem State.effectiveAddress_ripDisp_mode32 {s : State} (h : s.cfg.mode = .mode32) (next : Addr)
    (x bx : BitVec 1) (d : BitVec 32) :
    s.effectiveAddress true next (.ripDisp x bx d) = d.setWidth 64 := by
  simp [State.effectiveAddress, addressSum, h, setWidth_signExtend_disp32]

/-- R86: in `Mode32` no form is relative to the next instruction. -/
theorem State.effectiveAddress_next_of_mode32 {s : State} (h : s.cfg.mode = .mode32) (a32 : Bool)
    (next next' : Addr) (m : MemOperand) :
    s.effectiveAddress a32 next m = s.effectiveAddress a32 next' m := by
  cases m with
  | base => rfl
  | ripDisp => simp [State.effectiveAddress, h]
  | sib => rfl
  | sibNoBase => rfl

/-! ## The address size and the linear address (R57, R89) -/

theorem State.address32_iff (s : State) (ops : Operands) :
    s.address32 ops = true ↔ s.cfg.mode = .mode32 ∨ .addrSize ∈ ops.legacy := by
  simp [State.address32]

theorem State.nextRip_of_mode64 {s : State} (h : s.cfg.mode = .mode64) (len : Nat) :
    s.nextRip len = s.rip + BitVec.ofNat 64 len := by
  simp [State.nextRip, h]

/-- Settles O37: an equation per form, with the displacement's offset; and the linear address, for which in `Mode32`
the next instruction's address does not matter. -/
theorem effectiveAddressForms : Obligations.EffectiveAddressForms := by
  intro s next x bx ss i b d8 d32
  refine ⟨?forms, ?rip64, ?disp32, fun ops m => ⟨s.address32_iff ops, ?linear64, ?linear32⟩⟩
  case forms =>
    simp [State.effectiveAddress_base, State.effectiveAddress_sib, State.effectiveAddress_sibNoBase,
      State.indexTerm_false, Disp.offset]
  case rip64 => exact fun h => State.effectiveAddress_ripDisp_mode64 h ..
  case disp32 => exact fun h => State.effectiveAddress_ripDisp_mode32 h ..
  case linear64 =>
    intro h
    rw [State.linearAddress, State.nextRip_of_mode64 h]
  case linear32 =>
    intro h
    rw [State.linearAddress, State.effectiveAddress_next_of_mode32 h]

/-! ## A masked-off access that would fault (R60) -/

section
variable {s : State} {ops : Operands} {ll : BitVec 2} {m : MemOperand} {e : Exception}

theorem State.maskedOffSrc3_of_perform (h3 : ops.src3 = .mem ll m) (hf : s.accessFault ops m = some e)
    (hp : s.cfg.maskedOffMem = .perform) : s.maskedOffSrc3 ops = .error e := by
  simp [State.maskedOffSrc3, h3, hf, hp]

theorem State.maskedOffSrc3_of_either (h3 : ops.src3 = .mem ll m) (hf : s.accessFault ops m = some e)
    (he : s.cfg.maskedOffMem = .either) :
    s.maskedOffSrc3 ops = if Config.maskedOffPerforms s.draws then .error e else .ok (s.draws + 1) := by
  simp [State.maskedOffSrc3, h3, hf, he]

end

/-- Enabled and with the mask bit 0, an instruction faults as operand 3 does (R110 step 5). -/
theorem exec_maskedOff_fault {i : Instr} {s : State} {e : Exception} (hen : s.Enabled)
    (hl : s.lengthUd i.ops.src3 = false) (hm : s.maskBit i.ops.mask = false)
    (he : s.maskedOffSrc3 i.ops = .error e) : exec i s = .fault (e.toFault s) := by
  obtain ⟨husable, hts⟩ := hen
  simp [exec_eq_execFms, execFms, husable, hts, hl, hm, he]

/-- Settles O30: what `maskedOffSrc3` answers is the instruction's fault, or the number of choices its commit leaves. -/
theorem maskedOffFaultingAccess : Obligations.MaskedOffFaultingAccess := by
  intro i s ll m e hen hl hm h3 hf
  constructor
  · exact fun hp => exec_maskedOff_fault hen hl hm (State.maskedOffSrc3_of_perform h3 hf hp)
  · intro he
    have hsrc := State.maskedOffSrc3_of_either h3 hf he
    cases hchoice : Config.maskedOffPerforms s.draws with
    | true => exact .inl (exec_maskedOff_fault hen hl hm (by simpa [hchoice] using hsrc))
    | false =>
      refine .inr ⟨_, exec_maskedOff hen hl hm (by simpa [hchoice] using hsrc), by simp,
        fun r hr => ?_, fun r hr => ?_⟩ <;> rw [hr] <;> exact completed_commit_setDraws ..

end Sys2Proof.Machine
end

section
/-! What the decoder answers on given bytes (R70 to R97): an equation for each part of an encoding, and from them
both directions of the round trip. -/

namespace Sys2Proof
open Machine

section
variable {ε : Type} {rd : Nat → Except ε Byte} {k : Nat}

/-! ## Reading in sequence, and from a list -/

@[simp] theorem except_ok_bind {α β : Type} (a : α) (f : α → Except ε β) : (Except.ok a >>= f) = f a := rfl

@[simp] theorem except_pure {α : Type} (a : α) : (pure a : Except ε α) = .ok a := rfl

/-- A list of bytes answers from `k` on exactly the beginnings of what is left of it there. -/
theorem readsAt_readList {bytes l : List Byte} : ReadsAt (readList bytes) k l ↔ l <+: bytes.drop k := by
  induction l generalizing k with
  | nil => simp
  | cons b bs ih =>
    rw [readsAt_cons, ih]
    by_cases hk : k < bytes.length
    · rw [List.drop_eq_getElem_cons hk, List.cons_prefix_cons]
      simp [readList, hk, eq_comm]
    · simp [readList, hk, List.drop_eq_nil_of_le (Nat.le_of_not_lt hk)]

theorem readsAt_readList_zero {bytes l : List Byte} : ReadsAt (readList bytes) 0 l ↔ l <+: bytes := by
  simp [readsAt_readList]

theorem readsAt_readList_self {bytes : List Byte} : ReadsAt (readList bytes) 0 bytes :=
  readsAt_readList_zero.2 List.prefix_rfl

theorem decode_of_decodeFrom {m : Mode} {bytes : List Byte} {d : Decoded}
    (h : decodeFrom m (readList bytes) = .ok d) : decode m bytes = d := by
  simp [decode, h]

/-- An instruction is never answered for want of bytes. -/
theorem decode_instr_iff {m : Mode} {bytes : List Byte} {i : Instr} :
    decode m bytes = .instr i ↔ decodeFrom m (readList bytes) = .ok (.instr i) := by
  unfold decode
  split
  next d hd => simp [hd]
  next he => simp [he]

/-! ## The bytes before the `62H` (R72, R96) -/

theorem LegacyPrefix.ofByte_toByte (p : LegacyPrefix) : LegacyPrefix.ofByte p.toByte = some p := by
  cases p <;> rfl

theorem LegacyPrefix.ofByte_eq_some {b : Byte} {p : LegacyPrefix} :
    LegacyPrefix.ofByte b = some p ↔ p.toByte = b :=
  ⟨LegacyPrefix.toByte_of_ofByte, fun h => h ▸ LegacyPrefix.ofByte_toByte p⟩

/-- None of the seven admitted bytes is a forbidden one. -/
theorem forbiddenPrefix_of_ofByte {m : Mode} {b : Byte} {p : LegacyPrefix} (h : LegacyPrefix.ofByte b = some p) :
    forbiddenPrefix m b = false := by
  obtain rfl := LegacyPrefix.toByte_of_ofByte h
  cases m <;> cases p <;> rfl

theorem ofByte_62 : LegacyPrefix.ofByte 0x62 = none := rfl

theorem forbiddenPrefix_62 (m : Mode) : forbiddenPrefix m 0x62 = false := by
  cases m <;> rfl

/-- What a scan finds that starts with the bytes `pre`, all of R72, and meets then another byte `b`. -/
def scanOf (m : Mode) (pre : List Byte) (b : Byte) : PrefixScan where
  legacy := pre.filterMap LegacyPrefix.ofByte
  forbidden := pre.any (forbiddenPrefix m)
  pos := pre.length
  byte := b

theorem scanPrefixes_eq {m : Mode} {fuel : Nat} {pre : List Byte} {b : Byte} (hpre : PrefixBytes m pre)
    (hb : LegacyPrefix.ofByte b = none) (hfb : forbiddenPrefix m b = false) (hr : ReadsAt rd k (pre ++ [b])) :
    scanPrefixes m rd fuel k =
      .ok (if pre.length < fuel then some { scanOf m pre b with pos := k + pre.length } else none) := by
  induction fuel generalizing k pre with
  | zero => rfl
  | succ fuel ih =>
    cases pre with
    | nil =>
      obtain ⟨hk, -⟩ := hr
      simp [scanPrefixes, scanOf, hk, hb, hfb]
    | cons c cs =>
      obtain ⟨hc, hcs⟩ := hr
      obtain ⟨hpc, hpcs⟩ := List.forall_mem_cons.1 hpre
      have hrec := ih hpcs hcs
      have hpos : k + 1 + cs.length = k + (cs.length + 1) := by omega
      cases hp : LegacyPrefix.ofByte c with
      | some p =>
        have hfc := forbiddenPrefix_of_ofByte (m := m) hp
        by_cases hlt : cs.length < fuel <;> simp [scanPrefixes, scanOf, hc, hp, hrec, hfc, hlt, hpos]
      | none =>
        have hfc : forbiddenPrefix m c = true := by simpa [hp] using hpc
        by_cases hlt : cs.length < fuel <;> simp [scanPrefixes, scanOf, hc, hp, hrec, hfc, hlt, hpos]

theorem decodeFrom_after_prefixes {m : Mode} {pre : List Byte} {b : Byte} (hpre : PrefixBytes m pre)
    (hb : LegacyPrefix.ofByte b = none) (hfb : forbiddenPrefix m b = false) (hr : ReadsAt rd 0 (pre ++ [b])) :
    decodeFrom m rd = if pre.length < prefixFuel then decodeEvex m rd (scanOf m pre b)
      else .ok (.refused .endlessPrefixes) := by
  rw [decodeFrom, scanPrefixes_eq hpre hb hfb hr, Nat.zero_add]
  split_ifs <;> rfl

theorem legacyOk_iff {m : Mode} {l : List LegacyPrefix} :
    legacyOk m l = true ↔ (l.filter LegacyPrefix.isSegment).length ≤ 1 ∧ (m = .mode32 → .addrSize ∉ l) := by
  cases m <;> simp [legacyOk]

theorem legacyOk_scanOf {m : Mode} {pre : List Byte} {b : Byte} :
    legacyOk m (scanOf m pre b).legacy = true ↔ PrefixesAdmitted m pre := by
  simp [scanOf, legacyOk_iff, LegacyPrefix.ofByte_eq_some, LegacyPrefix.toByte, PrefixesAdmitted]

theorem LegacyPrefix.prefixBytes_map (m : Mode) (l : List LegacyPrefix) :
    PrefixBytes m (l.map LegacyPrefix.toByte) := by
  intro b hb
  obtain ⟨p, -, rfl⟩ := List.mem_map.1 hb
  simp [LegacyPrefix.ofByte_toByte]

/-- The bytes of admitted prefixes are scanned as these, and none is forbidden. -/
theorem scanOf_map_toByte (m : Mode) (l : List LegacyPrefix) (b : Byte) :
    scanOf m (l.map LegacyPrefix.toByte) b = ⟨l, false, l.length, b⟩ := by
  have hlegacy : (l.map LegacyPrefix.toByte).filterMap LegacyPrefix.ofByte = l := by
    simp [List.filterMap_map, LegacyPrefix.ofByte_toByte]
  have hforbidden : (l.map LegacyPrefix.toByte).any (forbiddenPrefix m) = false := by
    simp [forbiddenPrefix_of_ofByte (LegacyPrefix.ofByte_toByte _)]
  simp [scanOf, hlegacy, hforbidden]

/-! ## The displacement and the memory operand (R84 to R88) -/

theorem disp32_of_bytes (d : BitVec 32) :
    d.extractLsb' 24 8 ++ d.extractLsb' 16 8 ++ d.extractLsb' 8 8 ++ d.extractLsb' 0 8 = d := by
  grind

theorem readDisp32_of_bytes {b0 b1 b2 b3 : Byte} (h : ReadsAt rd k [b0, b1, b2, b3]) :
    readDisp32 rd k = .ok (b3 ++ b2 ++ b1 ++ b0) := by
  obtain ⟨h0, h1, h2, h3, -⟩ := h
  simp [readDisp32, h0, h1, h2, h3]

theorem readDisp32_disp32Bytes {d : BitVec 32} (h : ReadsAt rd k (disp32Bytes d)) : readDisp32 rd k = .ok d := by
  rw [readDisp32_of_bytes h, disp32_of_bytes]

theorem readDisp_bytes {d : Disp} (h : ReadsAt rd k d.bytes) : readDisp rd d.modBits k = .ok d := by
  cases d with
  | none => rfl
  | disp8 d =>
    obtain ⟨hd, -⟩ := h
    simp [readDisp, Disp.modBits, hd]
  | disp32 d => simp [readDisp, Disp.modBits, readDisp32_disp32Bytes h]

section
variable {mod : BitVec 2} {rm : BitVec 3} {s : Byte} (x b : BitVec 1)

theorem readMemOperand_base {d : Disp} (hrm : rm ≠ 4) (hrip : ¬ (rm = 5 ∧ mod = 0))
    (hd : readDisp rd mod k = .ok d) : readMemOperand rd mod rm x b k = .ok (.base x (b ++ rm) d) := by
  have h4 : (rm == 4) = false := by simpa using hrm
  have h5 : (rm == 5 && mod == 0) = false := by simpa using hrip
  simp only [readMemOperand, h4, h5, hd]
  rfl

theorem readMemOperand_ripDisp {d : BitVec 32} (hd : readDisp32 rd k = .ok d) :
    readMemOperand rd 0 5 x b k = .ok (.ripDisp x b d) := by
  simp [readMemOperand, hd]

theorem readMemOperand_sib {d : Disp} (hs : rd k = .ok s) (hbase : ¬ (s.extractLsb' 0 3 = 5 ∧ mod = 0))
    (hd : readDisp rd mod (k + 1) = .ok d) :
    readMemOperand rd mod 4 x b k =
      .ok (.sib (s.extractLsb' 6 2) (x ++ s.extractLsb' 3 3) (b ++ s.extractLsb' 0 3) d) := by
  have h5 : (s.extractLsb' 0 3 == 5 && mod == 0) = false := by simpa using hbase
  simp only [readMemOperand, hs, except_ok_bind, h5, hd]
  rfl

theorem readMemOperand_sibNoBase {d : BitVec 32} (hs : rd k = .ok s) (hbase : s.extractLsb' 0 3 = 5)
    (hd : readDisp32 rd (k + 1) = .ok d) :
    readMemOperand rd 0 4 x b k = .ok (.sibNoBase (s.extractLsb' 6 2) (x ++ s.extractLsb' 3 3) b d) := by
  simp only [readMemOperand, hs, except_ok_bind, hbase, hd]
  rfl

end

theorem regNumber_split (n : BitVec 4) : n.extractLsb' 3 1 ++ n.extractLsb' 0 3 = n := by grind

theorem Disp.okFor_iff {d : Disp} {r : BitVec 4} :
    d.okFor r = true ↔ ¬ (r.extractLsb' 0 3 = 5 ∧ d.modBits = 0) := by
  cases d <;> simp [Disp.okFor, Disp.modBits]

theorem sib_fields (ss : BitVec 2) (n r : BitVec 3) :
    (ss ++ n ++ r : Byte).extractLsb' 6 2 = ss ∧ (ss ++ n ++ r : Byte).extractLsb' 3 3 = n ∧
      (ss ++ n ++ r : Byte).extractLsb' 0 3 = r := by
  refine ⟨?_, ?_, ?_⟩ <;> grind

/-- A well-formed memory operand is read back from its bytes and its fields of ModRM and the payload. -/
theorem readMemOperand_bytes {m : Mode} {mo : MemOperand} (hwf : mo.wf m = true) (h : ReadsAt rd k mo.bytes)
    (ll : BitVec 2) :
    readMemOperand rd (Operand3.mem ll mo).modBits (Operand3.mem ll mo).rmBits (Operand3.mem ll mo).xBit
      (Operand3.mem ll mo).bBit k = .ok mo := by
  cases mo with
  | base x b d =>
    simp only [MemOperand.wf, Bool.and_eq_true, bne_iff_ne, Disp.okFor_iff] at hwf
    obtain ⟨⟨⟨hrm, hrip⟩, -⟩, -⟩ := hwf
    have hread := readMemOperand_base x (b.extractLsb' 3 1) hrm hrip (readDisp_bytes h)
    rwa [regNumber_split] at hread
  | ripDisp x bx d => exact readMemOperand_ripDisp x bx (readDisp32_disp32Bytes h)
  | sib ss i b d =>
    simp only [MemOperand.wf, Bool.and_eq_true, Disp.okFor_iff] at hwf
    obtain ⟨⟨hbase, -⟩, -⟩ := hwf
    obtain ⟨hs, hd⟩ := h
    obtain ⟨hss, hi, hb⟩ := sib_fields ss (i.extractLsb' 0 3) (b.extractLsb' 0 3)
    have hread := readMemOperand_sib (i.extractLsb' 3 1) (b.extractLsb' 3 1) hs (by rwa [hb]) (readDisp_bytes hd)
    rwa [hss, hi, hb, regNumber_split, regNumber_split] at hread
  | sibNoBase ss i bx d =>
    obtain ⟨hs, hd⟩ := h
    obtain ⟨hss, hi, hb⟩ := sib_fields ss (i.extractLsb' 0 3) 5#3
    have hread := readMemOperand_sibNoBase (i.extractLsb' 3 1) bx hs hb (readDisp32_disp32Bytes hd)
    rwa [hss, hi, regNumber_split] at hread

/-! ## Operand 3 (R76, R83 to R85) -/

section
variable {sc : PrefixScan} {hd : EvexHead} {mk : Operands → Instr}

theorem decodeOperand3_reg (hmod : hd.mod = 3) :
    decodeOperand3 rd sc hd mk = .ok (verdict sc hd mk 0 (some (.reg hd.src3
      (if hd.bcast then .embedded (RoundMode.ofBits hd.ll) else .dynamic hd.ll)))) :=
  if_pos (by simp [hmod])

theorem decodeOperand3_mem {mo : MemOperand} (hmod : hd.mod ≠ 3)
    (hmo : readMemOperand rd hd.mod (hd.modrm.extractLsb' 0 3) hd.x hd.b (sc.pos + 6) = .ok mo) :
    decodeOperand3 rd sc hd mk =
      .ok (verdict sc hd mk mo.length (if hd.bcast then none else some (.mem hd.ll mo))) := by
  rw [decodeOperand3, if_neg (by simpa using hmod), hmo]
  rfl

variable {tail : Nat} {src3 : Option Operand3}

theorem verdict_gp0 (h : 15 < sc.pos + 6 + tail) : verdict sc hd mk tail src3 = .gp0 := if_pos h

theorem verdict_ud (hlen : sc.pos + 6 + tail ≤ 15)
    (h : sc.forbidden = true ∨ hd.fixedBitsOk = false ∨ hd.mask = none ∨ src3 = none) :
    verdict sc hd mk tail src3 = .ud := by
  unfold verdict
  rw [if_neg (Nat.not_lt.2 hlen)]
  split
  · rfl
  next hud =>
  split
  next mask op3 hmask => simp_all
  · rfl

theorem verdict_eq_instr {mask : WriteMask} {op3 : Operand3} (hlen : sc.pos + 6 + tail ≤ 15)
    (hf : sc.forbidden = false) (hfix : hd.fixedBitsOk = true) (hmask : hd.mask = some mask) :
    verdict sc hd mk tail (some op3) = .instr (mk ⟨sc.legacy, hd.dest, hd.src2, op3, mask⟩) := by
  unfold verdict
  rw [if_neg (Nat.not_lt.2 hlen), if_neg (by simp [hf, hfix]), hmask]

end

/-! ## The payload and the opcode (R73 to R78) -/

theorem lookup_opcode (i : Instr) : ∃ mk, opcodeTable.lookup i.opcode = some mk ∧ mk i.ops = i := by
  cases i <;> exact ⟨_, rfl, rfl⟩

theorem decodeEvex_eq {m : Mode} {sc : PrefixScan} {hd : EvexHead} {mk : Operands → Instr}
    (hbyte : sc.byte = 0x62) (hl : legacyOk m sc.legacy = true) (hs : hd.Selects m)
    (hr : ReadsAt rd (sc.pos + 1) [hd.p0, hd.p1, hd.p2, hd.opc, hd.modrm])
    (hmk : opcodeTable.lookup hd.opc = some mk) :
    decodeEvex m rd sc = decodeOperand3 rd sc hd mk := by
  obtain ⟨hseg, h67⟩ := legacyOk_iff.1 hl
  obtain ⟨hmap, hpp, hw, hext0, hext1, hext2⟩ := hs
  obtain ⟨h0, h1, h2, h3, h4, -⟩ := hr
  rw [decodeEvex, if_neg (not_not.2 hbyte), if_neg (Nat.not_lt.2 hseg), if_neg fun h => h67 h.1 h.2,
    h0, except_ok_bind, if_neg fun h => h.2 (hext0 h.1), if_neg (not_not.2 hmap),
    h1, except_ok_bind, if_neg (ne_true_of_eq_false hw), if_neg (not_not.2 hpp),
    if_neg fun h => ne_true_of_eq_false h.2 (hext1 h.1),
    h2, except_ok_bind, if_neg fun h => ne_true_of_eq_false h.2 (hext2 h.1),
    h3, except_ok_bind, hmk]
  simp only [h4, except_ok_bind]

/-- The payload, the opcode and ModRM of an instruction with these operands (R70, R73, R80). -/
def Operands.head (o : Operands) (opc : Byte) : EvexHead := ⟨o.p0, o.p1, o.p2, opc, o.modrm⟩

theorem WriteMask.ofBits_toBits (m : WriteMask) : WriteMask.ofBits (m.zBit.getLsbD 0) m.aaaBits = some m := by
  cases m with
  | unmasked => rfl
  | merging r => cases r <;> rfl
  | zeroing r => cases r <;> rfl

theorem RoundMode.ofBits_toBits (rm : RoundMode) : RoundMode.ofBits rm.toBits = rm := by
  cases rm <;> rfl

namespace Operands
variable (o : Operands)

/-! The fields of the bytes of an encoding. -/

theorem p0_bit7 : o.p0.extractLsb' 7 1 = ~~~(o.dest.extractLsb' 3 1) := by grind [Operands.p0]
theorem p0_bit6 : o.p0.extractLsb' 6 1 = ~~~o.src3.xBit := by grind [Operands.p0]
theorem p0_bit5 : o.p0.extractLsb' 5 1 = ~~~o.src3.bBit := by grind [Operands.p0]
theorem p0_bit4 : o.p0.extractLsb' 4 1 = ~~~(o.dest.extractLsb' 4 1) := by grind [Operands.p0]
theorem p0_bit3 : o.p0.getLsbD 3 = false := by grind [Operands.p0]
theorem p1_bit7 : o.p1.getLsbD 7 = false := by grind [Operands.p1]
theorem p1_bit6 : o.p1.getLsbD 6 = !o.src2.getLsbD 3 := by grind [Operands.p1]
theorem p1_bit2 : o.p1.getLsbD 2 = true := by grind [Operands.p1]
theorem p1_vvvv : o.p1.extractLsb' 3 4 = ~~~(o.src2.extractLsb' 0 4) := by grind [Operands.p1]
theorem p2_bit7 : o.p2.extractLsb' 7 1 = o.mask.zBit := by grind [Operands.p2]
theorem p2_ll : o.p2.extractLsb' 5 2 = o.src3.llBits := by grind [Operands.p2]
theorem p2_bit4 : o.p2.extractLsb' 4 1 = o.src3.bcastBit := by grind [Operands.p2]
theorem p2_bit3 : o.p2.extractLsb' 3 1 = ~~~(o.src2.extractLsb' 4 1) := by grind [Operands.p2]
theorem p2_aaa : o.p2.extractLsb' 0 3 = o.mask.aaaBits := by grind [Operands.p2]
theorem modrm_mod : o.modrm.extractLsb' 6 2 = o.src3.modBits := by grind [Operands.modrm]
theorem modrm_reg : o.modrm.extractLsb' 3 3 = o.dest.extractLsb' 0 3 := by grind [Operands.modrm]
theorem modrm_rm : o.modrm.extractLsb' 0 3 = o.src3.rmBits := by grind [Operands.modrm]

/-- The four extension bits of `P0`. -/
theorem p0_ext : o.p0.extractLsb' 4 4 =
    ~~~(o.dest.extractLsb' 3 1) ++ ~~~o.src3.xBit ++ ~~~o.src3.bBit ++ ~~~(o.dest.extractLsb' 4 1) :=
  BitVec.extractLsb'_append_eq_left

theorem p0_map : o.p0.extractLsb' 0 3 = 6#3 := by
  rw [Operands.p0, BitVec.extractLsb'_append_eq_of_add_le (by decide)]
  rfl

theorem p1_pp : o.p1.extractLsb' 0 2 = 1#2 := by
  rw [Operands.p1, BitVec.extractLsb'_append_eq_of_add_le (by decide)]
  rfl

/-! What the decoder makes of them. -/

variable (opc : Byte)

theorem head_x : (o.head opc).x = o.src3.xBit := by simp [EvexHead.x, head, p0_bit6]
theorem head_b : (o.head opc).b = o.src3.bBit := by simp [EvexHead.b, head, p0_bit5]
theorem head_mod : (o.head opc).mod = o.src3.modBits := o.modrm_mod
theorem head_rm : (o.head opc).modrm.extractLsb' 0 3 = o.src3.rmBits := o.modrm_rm
theorem head_ll : (o.head opc).ll = o.src3.llBits := o.p2_ll

theorem head_dest : (o.head opc).dest = o.dest := by
  simp only [EvexHead.dest, head, p0_bit4, p0_bit7, modrm_reg]
  grind

theorem head_src2 : (o.head opc).src2 = o.src2 := by
  simp only [EvexHead.src2, head, p2_bit3, p1_vvvv]
  grind

theorem head_bcast : (o.head opc).bcast = o.src3.bcastBit.getLsbD 0 := by
  rw [← p2_bit4]
  simp [EvexHead.bcast, head]

theorem head_mask : (o.head opc).mask = some o.mask := by
  have hz : o.p2.getLsbD 7 = o.mask.zBit.getLsbD 0 := by simp [← p2_bit7]
  rw [EvexHead.mask, head, hz, p2_aaa, WriteMask.ofBits_toBits]

theorem head_fixedBitsOk : (o.head opc).fixedBitsOk = true := by
  rw [EvexHead.fixedBitsOk, head, p0_bit3, p1_bit2]
  rfl

variable {o} {s3 : BitVec 5} {rc : RoundCtl}

theorem head_src3 (h : o.src3 = .reg s3 rc) : (o.head opc).src3 = s3 := by
  have hsplit : s3.extractLsb' 4 1 ++ s3.extractLsb' 3 1 ++ s3.extractLsb' 0 3 = s3 := by grind
  rw [EvexHead.src3, head_x, head_b, head_rm, h]
  exact hsplit

theorem head_roundCtl (h : o.src3 = .reg s3 rc) :
    (if (o.head opc).bcast then .embedded (RoundMode.ofBits (o.head opc).ll) else .dynamic (o.head opc).ll) = rc := by
  rw [head_bcast, head_ll, h]
  cases rc with
  | dynamic ll => simp [Operand3.bcastBit, Operand3.llBits]
  | embedded rm => simp [Operand3.bcastBit, Operand3.llBits, RoundMode.ofBits_toBits]

end Operands

/-! ## Well-formed operands (R71, R84, R93) -/

theorem getLsbD_of_regOk {n : Nat} {v : BitVec n} (h : regOk .mode32 v.toNat = true) {j : Nat} (hj : 3 ≤ j) :
    v.getLsbD j = false := by
  have hlt : v.toNat < 2 ^ 3 := by simpa [regOk] using h
  exact Nat.testBit_lt_two_pow (hlt.trans_le (Nat.pow_le_pow_right (by decide) hj))

theorem extractLsb'_of_regOk {n : Nat} {v : BitVec n} (h : regOk .mode32 v.toNat = true) {j : Nat} (hj : 3 ≤ j) :
    v.extractLsb' j 1 = 0 := by
  have hbit := getLsbD_of_regOk h hj
  grind

/-- R93: in `Mode32` the bits `X` and `B` of operand 3 are 0. -/
theorem Operand3.ext_of_wf {o : Operand3} (h : o.wf .mode32 = true) : o.xBit = 0 ∧ o.bBit = 0 := by
  cases o with
  | reg s3 rc => exact ⟨extractLsb'_of_regOk h (by decide), extractLsb'_of_regOk h (by decide)⟩
  | mem ll mo =>
    cases mo with
    | base x b d =>
      obtain ⟨⟨-, hb⟩, hx⟩ : (_ ∧ regOk .mode32 b.toNat = true) ∧ x = 0 := by
        simpa [Operand3.wf, MemOperand.wf] using h
      exact ⟨hx, extractLsb'_of_regOk hb (by decide)⟩
    | ripDisp x bx d =>
      have hext : x = 0 ∧ bx = 0 := by simpa [Operand3.wf, MemOperand.wf] using h
      exact hext
    | sib ss i b d =>
      obtain ⟨⟨-, hb⟩, hi⟩ : (_ ∧ regOk .mode32 b.toNat = true) ∧ regOk .mode32 i.toNat = true := by
        simpa [Operand3.wf, MemOperand.wf] using h
      exact ⟨extractLsb'_of_regOk hi (by decide), extractLsb'_of_regOk hb (by decide)⟩
    | sibNoBase ss i bx d =>
      obtain ⟨hi, hb⟩ : regOk .mode32 i.toNat = true ∧ bx = 0 := by simpa [Operand3.wf, MemOperand.wf] using h
      exact ⟨extractLsb'_of_regOk hi (by decide), hb⟩

/-- R80, R83: only the register form has `mod` = 11b. -/
theorem Operand3.modBits_mem_ne_three (ll : BitVec 2) (mo : MemOperand) : (Operand3.mem ll mo).modBits ≠ 3 := by
  have hzero : (0 : BitVec 2) ≠ 3 := by decide
  have hdisp (d : Disp) : d.modBits ≠ 3 := by
    cases d <;> simp [Disp.modBits]
  cases mo with
  | base x b d => exact hdisp d
  | ripDisp x bx d => exact hzero
  | sib ss i b d => exact hdisp d
  | sibNoBase ss i bx d => exact hzero

theorem Operands.wf_iff {m : Mode} {o : Operands} :
    o.wf m = true ↔ legacyOk m o.legacy = true ∧ regOk m o.dest.toNat = true ∧ regOk m o.src2.toNat = true ∧
      o.src3.wf m = true ∧ o.length ≤ 15 := by
  simp [Operands.wf, and_assoc]

theorem Operands.head_selects {m : Mode} {o : Operands} (hwf : o.wf m = true) (opc : Byte) :
    (o.head opc).Selects m := by
  obtain ⟨-, hdest, hsrc2, h3, -⟩ := Operands.wf_iff.1 hwf
  refine ⟨o.p0_map, o.p1_pp, o.p1_bit7, ?_, ?_, ?_⟩
  · rintro rfl
    obtain ⟨hx, hb⟩ := Operand3.ext_of_wf h3
    have hdest (j : Nat) (hj : 3 ≤ j) : o.dest.extractLsb' j 1 = 0 := extractLsb'_of_regOk hdest hj
    rw [Operands.head, o.p0_ext, hx, hb, hdest 3 (by decide), hdest 4 (by decide)]
    rfl
  · rintro rfl
    rw [Operands.head, o.p1_bit6, getLsbD_of_regOk hsrc2 (by decide)]
    rfl
  · rintro rfl
    have hbit : o.p2.getLsbD 3 = (o.p2.extractLsb' 3 1).getLsbD 0 := by simp
    rw [Operands.head, hbit, o.p2_bit3, extractLsb'_of_regOk hsrc2 (by decide)]
    rfl

/-! ## The round trip (R70, R96, R97) -/

/-- Well-formed operands are read back after their prefixes, payload and opcode. -/
theorem Operands.decodeOperand3_head {m : Mode} {sc : PrefixScan} {o : Operands} {opc : Byte}
    {mk : Operands → Instr} (hwf : o.wf m = true) (hf : sc.forbidden = false) (hlegacy : sc.legacy = o.legacy)
    (hpos : sc.pos = o.legacy.length) (hr : ReadsAt rd (sc.pos + 6) o.src3.bytes) :
    decodeOperand3 rd sc (o.head opc) mk = .ok (.instr (mk o)) := by
  obtain ⟨-, -, -, h3, hlen⟩ := Operands.wf_iff.1 hwf
  have hlen : sc.pos + 6 + o.src3.length ≤ 15 := by rwa [hpos]
  have hv : verdict sc (o.head opc) mk o.src3.length (some o.src3) = .instr (mk o) := by
    rw [verdict_eq_instr hlen hf (o.head_fixedBitsOk opc) (o.head_mask opc), o.head_dest, o.head_src2, hlegacy]
  rw [← hv]
  cases hsrc : o.src3 with
  | reg s3 rc =>
    have hmod : (o.head opc).mod = 3 := by
      rw [o.head_mod, hsrc]
      rfl
    rw [decodeOperand3_reg hmod, Operands.head_roundCtl opc hsrc, Operands.head_src3 opc hsrc]
    rfl
  | mem ll mo =>
    rw [hsrc] at h3 hr
    have hmod : (o.head opc).mod ≠ 3 := by
      rw [o.head_mod, hsrc]
      exact Operand3.modBits_mem_ne_three ll mo
    have hmo : readMemOperand rd (o.head opc).mod ((o.head opc).modrm.extractLsb' 0 3) (o.head opc).x
        (o.head opc).b (sc.pos + 6) = .ok mo := by
      rw [o.head_mod, o.head_x, o.head_b, o.head_rm, hsrc]
      exact readMemOperand_bytes h3 hr ll
    have hb : (o.head opc).bcast = false := by
      simp [o.head_bcast, hsrc, Operand3.bcastBit]
    rw [decodeOperand3_mem hmod hmo, hb, o.head_ll, hsrc]
    rfl

/-- R70 to R97: a reader that answers the encoding of a well-formed instruction is decoded to it. -/
theorem decodeFrom_encode {m : Mode} {i : Instr} (hwf : i.wf m = true) (hr : ReadsAt rd 0 (encode i)) :
    decodeFrom m rd = .ok (.instr i) := by
  obtain ⟨mk, hmk, hmki⟩ := lookup_opcode i
  obtain ⟨hlegacy, -, -, -, hlen⟩ := Operands.wf_iff.1 hwf
  have hlt : i.ops.legacy.length < prefixFuel := by
    unfold prefixFuel Operands.length at *
    omega
  obtain ⟨hpre, h62, hrest⟩ := readsAt_append.1 hr
  obtain ⟨hhead, hop3⟩ := readsAt_append (l₁ := [_, _, _, _, _]).1 hrest
  rw [List.length_map, Nat.zero_add] at hhead hop3
  have hscan := decodeFrom_after_prefixes (LegacyPrefix.prefixBytes_map m i.ops.legacy) ofByte_62
    (forbiddenPrefix_62 m) (readsAt_append.2 ⟨hpre, h62, trivial⟩)
  rw [scanOf_map_toByte, List.length_map, if_pos hlt] at hscan
  rw [hscan, decodeEvex_eq rfl hlegacy (Operands.head_selects hwf i.opcode) hhead hmk,
    Operands.decodeOperand3_head hwf rfl rfl rfl hop3, hmki]

end

/-- Settles O1: the list answers the encoding, whatever follows it, and `decodeFrom_encode` says what is decoded. -/
theorem decodeOfEncode : Obligations.DecodeOfEncode := fun _ _ rest hwf =>
  decode_of_decodeFrom (decodeFrom_encode hwf (readsAt_readList_zero.2 (List.prefix_append _ rest)))

/-- Settles O2: what the decoder of `decodeFrom_instr` read from the list is a beginning of it. -/
theorem decodedBytesAreTheEncoding : Obligations.DecodedBytesAreTheEncoding := by
  intro m bytes i h
  obtain ⟨hwf, hbytes⟩ := decodeFrom_instr (decode_instr_iff.1 h)
  have hlen : (encode i).length = i.length := Laws.encode_length_of i
  have hpre := List.prefix_iff_eq_take.1 (readsAt_readList_zero.1 hbytes)
  exact ⟨hwf, by rw [← hlen, ← hpre]⟩

theorem decode_eq_of_encode_eq {i : Instr} {bytes : List Byte} (hwf : i.wf .mode64 = true)
    (henc : encode i = bytes) : decode .mode64 bytes = .instr i := by
  have h := decodeOfEncode .mode64 i [] hwf
  rwa [List.append_nil, henc] at h

/-- Settles O3: each of the seven is the encoding of its instruction, by O1. -/
theorem workedEncodingsDecode : Obligations.WorkedEncodingsDecode :=
  ⟨decode_eq_of_encode_eq rfl rfl, decode_eq_of_encode_eq rfl rfl, decode_eq_of_encode_eq rfl rfl,
    decode_eq_of_encode_eq rfl rfl, decode_eq_of_encode_eq rfl rfl, decode_eq_of_encode_eq rfl rfl,
    decode_eq_of_encode_eq rfl rfl⟩

end Sys2Proof
end

section
/-! Bytes that are denied a meaning (R94, R95): the verdict on every encoding of the six opcodes, and what is refused
before. -/

namespace Sys2Proof
open Machine

section
variable {ε : Type} {rd : Nat → Except ε Byte} {k : Nat}

/-! ## An operand 3 is read from any bytes that are enough (R71, R96) -/

/-- The number of displacement bytes that `mod` announces beside a base register (R84). -/
def dispTail (mod : BitVec 2) : Nat := if mod = 1 then 1 else if mod = 2 then 4 else 0

theorem readDisp32_ok {tail : List Byte} (h : ReadsAt rd k tail) (hlen : 4 ≤ tail.length) :
    ∃ d, readDisp32 rd k = .ok d := by
  match tail, hlen with
  | b0 :: b1 :: b2 :: b3 :: rest, _ =>
    obtain ⟨hbytes, -⟩ := readsAt_append (l₁ := [b0, b1, b2, b3]).1 h
    exact ⟨_, readDisp32_of_bytes hbytes⟩

theorem readDisp_ok {mod : BitVec 2} {tail : List Byte} (h : ReadsAt rd k tail)
    (hlen : dispTail mod ≤ tail.length) : ∃ d, readDisp rd mod k = .ok d ∧ d.length = dispTail mod := by
  unfold dispTail at *
  by_cases h1 : mod = 1
  · subst h1
    obtain _ | ⟨b, bs⟩ := tail
    · simp at hlen
    · obtain ⟨hb, -⟩ := h
      exact ⟨.disp8 b, by simp [readDisp, hb], rfl⟩
  by_cases h2 : mod = 2
  · subst h2
    obtain ⟨d, hd⟩ := readDisp32_ok h hlen
    exact ⟨.disp32 d, by simp [readDisp, hd], rfl⟩
  · refine ⟨.none, by simp_all [readDisp], ?_⟩
    rw [if_neg h1, if_neg h2]
    rfl

/-- Whatever bytes follow ModRM, if they are as many as it announces, a memory operand of that length is read. -/
theorem readMemOperand_ok {modrm : Byte} {tail : List Byte} (x b : BitVec 1) (hmod : modrm.extractLsb' 6 2 ≠ 3)
    (h : ReadsAt rd k tail) (hlen : operandTail modrm (tail.headD 0) ≤ tail.length) :
    ∃ mo, readMemOperand rd (modrm.extractLsb' 6 2) (modrm.extractLsb' 0 3) x b k = .ok mo ∧
      mo.length = operandTail modrm (tail.headD 0) := by
  unfold operandTail at *
  generalize modrm.extractLsb' 6 2 = mod at *
  generalize modrm.extractLsb' 0 3 = rm at *
  by_cases hrm : rm = 4
  · subst hrm
    cases tail with
    | nil => grind
    | cons s rest =>
      obtain ⟨hs, hrest⟩ := h
      by_cases hbase : s.extractLsb' 0 3 = 5 ∧ mod = 0
      · obtain ⟨hbs, rfl⟩ := hbase
        obtain ⟨d, hd⟩ := readDisp32_ok hrest (by simpa [hbs] using hlen)
        exact ⟨_, readMemOperand_sibNoBase x b hs hbs hd, by simp [hbs, MemOperand.length]⟩
      · obtain ⟨d, hd, hdlen⟩ := readDisp_ok (mod := mod) hrest (by grind [dispTail])
        exact ⟨_, readMemOperand_sib x b hs hbase hd, by grind [MemOperand.length, dispTail]⟩
  by_cases hrip : rm = 5 ∧ mod = 0
  · obtain ⟨rfl, rfl⟩ := hrip
    obtain ⟨d, hd⟩ := readDisp32_ok h (by simpa using hlen)
    exact ⟨_, readMemOperand_ripDisp x b hd, by simp [MemOperand.length]⟩
  · obtain ⟨d, hd, hdlen⟩ := readDisp_ok (mod := mod) h (by grind [dispTail])
    exact ⟨_, readMemOperand_base x b hrm hrip hd, by grind [MemOperand.length, dispTail]⟩

/-- After the opcode the decoder comes to a verdict, with no operand 3 where `b` = 1 in the memory form (R76). -/
theorem decodeOperand3_verdict {sc : PrefixScan} {hd : EvexHead} {mk : Operands → Instr} {bytes : List Byte}
    (hr : ReadsAt rd (sc.pos + 6) bytes) (hlen : operandTail hd.modrm (bytes.headD 0) ≤ bytes.length) :
    ∃ src3, decodeOperand3 rd sc hd mk = .ok (verdict sc hd mk (operandTail hd.modrm (bytes.headD 0)) src3) ∧
      (hd.bcast = true → hd.mod ≠ 3 → src3 = none) := by
  by_cases hmod : hd.mod = 3
  · have htail : operandTail hd.modrm (bytes.headD 0) = 0 := if_pos hmod
    rw [htail]
    exact ⟨_, decodeOperand3_reg hmod, fun _ h => absurd hmod h⟩
  · obtain ⟨mo, hmo, hmolen⟩ := readMemOperand_ok hd.x hd.b hmod hr hlen
    rw [← hmolen]
    exact ⟨_, decodeOperand3_mem hmod hmo, fun hb _ => if_pos hb⟩

/-! ## The verdict on an encoding of the six opcodes (R94, R210) -/

theorem lookup_opcode_none {opc : Byte} :
    opcodeTable.lookup opc = none ↔ opc ∉ [0x9B#8, 0xAB#8, 0xBB#8, 0x9F#8, 0xAF#8, 0xBF#8] := by
  simp [opcodeTable, List.lookup_eq_none_iff]

/-- The payload and the opcode that select one of the six (R94) are those the decoder lets pass. -/
theorem selectsOne_iff {m : Mode} {p0 p1 p2 opc : Byte} (modrm : Byte) :
    SelectsOne m p0 p1 p2 opc ↔
      (EvexHead.mk p0 p1 p2 opc modrm).Selects m ∧ ∃ mk, opcodeTable.lookup opc = some mk := by
  rw [← Option.ne_none_iff_exists', ne_eq, lookup_opcode_none, not_not]
  constructor
  · rintro ⟨hmap, hpp, hw, hopc, hext⟩
    exact ⟨⟨hmap, hpp, hw, fun hm => (hext hm).1, fun hm => (hext hm).2.1, fun hm => (hext hm).2.2⟩, hopc⟩
  · rintro ⟨⟨hmap, hpp, hw, hext0, hext1, hext2⟩, hopc⟩
    exact ⟨hmap, hpp, hw, hopc, fun hm => ⟨hext0 hm, hext1 hm, hext2 hm⟩⟩

section
variable {m : Mode} {pre tail : List Byte} {p0 p1 p2 opc modrm : Byte}

/-- Behind admitted prefixes, bytes that select one of the six and are complete come to a verdict. -/
theorem decodeFrom_verdict (hpre : PrefixBytes m pre) (hadm : PrefixesAdmitted m pre)
    (hsel : SelectsOne m p0 p1 p2 opc) (hlt : pre.length < prefixFuel)
    (hlen : operandTail modrm (tail.headD 0) ≤ tail.length)
    (hr : ReadsAt rd 0 (pre ++ 0x62 :: p0 :: p1 :: p2 :: opc :: modrm :: tail)) :
    ∃ mk src3, decodeFrom m rd = .ok (verdict (scanOf m pre 0x62) ⟨p0, p1, p2, opc, modrm⟩ mk
        (operandTail modrm (tail.headD 0)) src3) ∧
      (p2.getLsbD 4 = true → modrm.extractLsb' 6 2 ≠ 3#2 → src3 = none) := by
  obtain ⟨hs, mk, hmk⟩ := (selectsOne_iff modrm).1 hsel
  obtain ⟨hrpre, h62, hrest⟩ := readsAt_append.1 hr
  obtain ⟨hhead, htail⟩ := readsAt_append (l₁ := [_, _, _, _, _]).1 hrest
  rw [Nat.zero_add] at hhead htail
  have hscan := decodeFrom_after_prefixes hpre ofByte_62 (forbiddenPrefix_62 m)
    (readsAt_append.2 ⟨hrpre, h62, trivial⟩)
  obtain ⟨src3, hsrc3, hnone⟩ := decodeOperand3_verdict (sc := scanOf m pre 0x62)
    (hd := ⟨p0, p1, p2, opc, modrm⟩) (mk := mk) htail hlen
  refine ⟨mk, src3, ?_, hnone⟩
  rw [hscan, if_pos hlt, ← hsrc3]
  exact decodeEvex_eq rfl (legacyOk_scanOf.2 hadm) hs hhead hmk

/-- R91: zeroing without a writemask is no writemask. -/
theorem EvexHead.mask_eq_none {hd : EvexHead} (hz : hd.p2.getLsbD 7 = true) (haaa : hd.p2.extractLsb' 0 3 = 0#3) :
    hd.mask = none := by
  rw [EvexHead.mask, hz, haaa]
  rfl

/-- Each of the #UD conditions of R94 makes the verdict #UD. -/
theorem verdict_of_reserved {mk : Operands → Instr} {src3 : Option Operand3} {n : Nat}
    (hlen : pre.length + 6 + n ≤ 15) (hres : Reserved m pre p0 p1 p2 modrm)
    (hnone : p2.getLsbD 4 = true → modrm.extractLsb' 6 2 ≠ 3#2 → src3 = none) :
    verdict (scanOf m pre 0x62) ⟨p0, p1, p2, opc, modrm⟩ mk n src3 = .ud := by
  refine verdict_ud hlen ?_
  obtain hp0 | hp1 | ⟨hz, haaa⟩ | ⟨hb, hmod⟩ | hforbidden := hres
  · exact .inr (.inl (by rw [EvexHead.fixedBitsOk, hp0]; rfl))
  · exact .inr (.inl (by rw [EvexHead.fixedBitsOk, hp1, Bool.and_false]))
  · exact .inr (.inr (.inl (EvexHead.mask_eq_none hz haaa)))
  · exact .inr (.inr (.inr (hnone hb hmod)))
  · exact .inl (List.any_eq_true.2 hforbidden)

end

/-! ## Bytes that are refused (R93, R95) -/

/-- The bytes are refused, and not for want of bytes. -/
def Refuses (x : Except ε Decoded) : Prop := ∃ why, why ≠ .truncated ∧ x = .ok (.refused why)

theorem refuses_ite {c : Prop} [Decidable c] {r : RejectReason} {x : Except ε Decoded} (hr : r ≠ .truncated)
    (hx : ¬ c → Refuses x) : Refuses (if c then pure (.refused r) else x) := by
  by_cases h : c
  · exact ⟨r, hr, if_pos h⟩
  · rw [if_neg h]
    exact hx h

theorem decodeEvex_refuses_of_byte {m : Mode} {sc : PrefixScan} (h : sc.byte ≠ 0x62) :
    Refuses (decodeEvex m rd sc) :=
  refuses_ite (by decide) fun h62 => absurd h h62

/-- Bytes that pass every test up to the opcode select one of the six, and all others are refused there. -/
theorem decodeEvex_refuses {m : Mode} {sc : PrefixScan} {p0 p1 p2 opc : Byte}
    (hr : ReadsAt rd (sc.pos + 1) [p0, p1, p2, opc])
    (h : ¬ (legacyOk m sc.legacy = true ∧ SelectsOne m p0 p1 p2 opc)) :
    Refuses (decodeEvex m rd sc) := by
  obtain ⟨h0, h1, h2, h3, -⟩ := hr
  refine refuses_ite (by decide) fun hbyte => refuses_ite (by decide) fun hseg =>
    refuses_ite (by decide) fun h67 => ?_
  rw [h0, except_ok_bind]
  refine refuses_ite (by decide) fun hext0 => refuses_ite (by decide) fun hmap => ?_
  rw [h1, except_ok_bind]
  refine refuses_ite (by decide) fun hw => refuses_ite (by decide) fun hpp =>
    refuses_ite (by decide) fun hext1 => ?_
  rw [h2, except_ok_bind]
  refine refuses_ite (by decide) fun hext2 => ?_
  rw [h3, except_ok_bind]
  cases hmk : opcodeTable.lookup opc with
  | none => exact ⟨.otherOpcode, by decide, rfl⟩
  | some mk =>
    have hlegacy : legacyOk m sc.legacy = true :=
      legacyOk_iff.2 ⟨Nat.not_lt.1 hseg, fun hm hl => h67 ⟨hm, hl⟩⟩
    have hsel : (EvexHead.mk p0 p1 p2 opc 0).Selects m :=
      { map := not_not.1 hmap
        pp := not_not.1 hpp
        w := eq_false_of_ne_true hw
        ext0 := fun hm => not_not.1 fun hne => hext0 ⟨hm, hne⟩
        ext1 := fun hm => eq_true_of_ne_false fun hf => hext1 ⟨hm, hf⟩
        ext2 := fun hm => eq_true_of_ne_false fun hf => hext2 ⟨hm, hf⟩ }
    exact absurd ⟨hlegacy, (selectsOne_iff 0).2 ⟨hsel, mk, hmk⟩⟩ h

/-- What is refused behind the prefixes is refused, as are prefixes without an end. -/
theorem decodeFrom_refuses {m : Mode} {pre : List Byte} {b : Byte} (hpre : PrefixBytes m pre)
    (hb : LegacyPrefix.ofByte b = none) (hfb : forbiddenPrefix m b = false) (hr : ReadsAt rd 0 (pre ++ [b]))
    (h : Refuses (decodeEvex m rd (scanOf m pre b))) : Refuses (decodeFrom m rd) := by
  rw [decodeFrom_after_prefixes hpre hb hfb hr]
  split_ifs
  · exact h
  · exact ⟨.endlessPrefixes, by decide, rfl⟩

end

theorem decode_of_refuses {m : Mode} {bytes : List Byte} (h : Refuses (decodeFrom m (readList bytes))) :
    ∃ why, why ≠ .truncated ∧ decode m bytes = .refused why := by
  obtain ⟨why, hne, hdec⟩ := h
  exact ⟨why, hne, decode_of_decodeFrom hdec⟩

/-! ## The statements -/

/-- Settles O4: the verdict is by `verdict_of_reserved` on each of the conditions. -/
theorem reservedEncodingsAreUd : Obligations.ReservedEncodingsAreUd := by
  intro m pre p0 p1 p2 opc modrm tail hpre hadm hsel htail hlen hres
  have hlt : pre.length < prefixFuel := by
    unfold prefixFuel
    omega
  obtain ⟨mk, src3, hdec, hnone⟩ := decodeFrom_verdict hpre hadm hsel hlt htail readsAt_readList_self
  rw [decode_of_decodeFrom hdec, verdict_of_reserved hlen hres hnone]

/-- Settles O5: the verdict compares the length first. -/
theorem overlongInstructionsAreGp0 : Obligations.OverlongInstructionsAreGp0 := by
  intro m pre p0 p1 p2 opc modrm tail hpre hadm hsel hlt htail hlen
  obtain ⟨mk, src3, hdec, -⟩ := decodeFrom_verdict hpre hadm hsel hlt htail readsAt_readList_self
  rw [decode_of_decodeFrom hdec, verdict_gp0 hlen]

/-- Settles O6: the byte after the prefixes, or the payload and opcode behind a `62H`, fail one of the tests. -/
theorem otherBytesAreRefused : Obligations.OtherBytesAreRefused := by
  constructor
  · intro m pre b rest hpre hb hfb hne
    have hr : ReadsAt (readList (pre ++ b :: rest)) 0 (pre ++ [b]) := readsAt_readList_zero.2 (by simp)
    exact decode_of_refuses (decodeFrom_refuses hpre hb hfb hr (decodeEvex_refuses_of_byte hne))
  · intro m pre p0 p1 p2 opc rest hpre h
    have hr : ReadsAt (readList (pre ++ 0x62 :: p0 :: p1 :: p2 :: opc :: rest)) 0
        ((pre ++ [0x62]) ++ [p0, p1, p2, opc]) := readsAt_readList_zero.2 (by simp)
    obtain ⟨hscan, hpayload⟩ := readsAt_append.1 hr
    refine decode_of_refuses (decodeFrom_refuses hpre ofByte_62 (forbiddenPrefix_62 m) hscan ?_)
    refine decodeEvex_refuses (by simpa [scanOf] using hpayload) ?_
    rwa [legacyOk_scanOf]

end Sys2Proof
end

section
/-! What an encoding's length field, address size and segment override mean to the execution (R57, R77, R89, R90). -/

namespace Sys2Proof.Machine

/-! ## The length field (R77, R202 U7) -/

theorem exec_of_mem_opcodeTable {mk : Operands → Instr} (h : mk ∈ opcodeTable.map Prod.snd) :
    ∃ neg order, ∀ ops s, exec (mk ops) s = execFms neg order ops s := by
  simp only [opcodeTable, List.map_cons, List.map_nil, List.mem_cons, List.not_mem_nil, or_false] at h
  obtain rfl | rfl | rfl | rfl | rfl | rfl := h <;> exact ⟨_, _, fun _ _ => rfl⟩

theorem State.lengthUd_iff {s : State} {op3 : Operand3} : s.lengthUd op3 = true ↔
    s.cfg.ll3 = .ud ∧ ((∃ s3, op3 = .reg s3 (.dynamic 3)) ∨ ∃ m, op3 = .mem 3 m) := by
  match op3 with
  | .reg s3 (.dynamic ll) => simp [State.lengthUd]
  | .reg s3 (.embedded rm) => simp [State.lengthUd]
  | .mem ll m => simp [State.lengthUd]

theorem State.lengthUd_eq_false {s : State} {ll : BitVec 2} (h : ll ≠ 3 ∨ s.cfg.ll3 = .ignore) (s3 : BitVec 5)
    (m : MemOperand) : s.lengthUd (.reg s3 (.dynamic ll)) = false ∧ s.lengthUd (.mem ll m) = false := by
  obtain hne | hignore := h
  · simpa [State.lengthUd] using fun _ => hne
  · simp [State.lengthUd, hignore]

theorem execFms_of_lengthUd {neg : Bool} {order : OperandOrder} {ops : Operands} {s : State}
    (h : s.lengthUd ops.src3 = true) : execFms neg order ops s = .fault (.ud s) := by
  simp [execFms, h, Exception.toFault]

/-- All that an execution takes from operand 3: the #UD condition, the rounding, its length and what it reads. -/
theorem execFms_congr_src3 {neg : Bool} {order : OperandOrder} {ops : Operands} {s : State} {o o' : Operand3}
    (hud : s.lengthUd o = s.lengthUd o') (henv : s.fmsEnv o = s.fmsEnv o') (hlen : o.length = o'.length)
    (hread : s.readSrc3 { ops with src3 := o } = s.readSrc3 { ops with src3 := o' })
    (hmasked : s.maskedOffSrc3 { ops with src3 := o } = s.maskedOffSrc3 { ops with src3 := o' }) :
    execFms neg order { ops with src3 := o } s = execFms neg order { ops with src3 := o' } s := by
  simp only [execFms, finish, Operands.length, hud, henv, hlen, hread, hmasked]

/-- Settles O35: of the length field an execution takes the #UD condition alone. -/
theorem lengthFieldIgnored : Obligations.LengthFieldIgnored := by
  refine ⟨fun s op3 => State.lengthUd_iff, fun mk hmk ops s ll s3 m => ?_⟩
  obtain ⟨neg, order, hexec⟩ := exec_of_mem_opcodeTable hmk
  simp only [hexec]
  constructor
  · intro hll
    obtain ⟨hreg, hmem⟩ := State.lengthUd_eq_false hll s3 m
    obtain ⟨hreg0, hmem0⟩ := State.lengthUd_eq_false (s := s) (ll := 0) (.inl (by decide)) s3 m
    exact ⟨execFms_congr_src3 (hreg.trans hreg0.symm) rfl rfl rfl rfl,
      execFms_congr_src3 (hmem.trans hmem0.symm) rfl rfl rfl rfl⟩
  · intro hud
    exact ⟨execFms_of_lengthUd (State.lengthUd_iff.2 ⟨hud, .inl ⟨s3, rfl⟩⟩),
      execFms_of_lengthUd (State.lengthUd_iff.2 ⟨hud, .inr ⟨m, rfl⟩⟩)⟩

/-! ## The address size (R55, R89) -/

/-- Either address size keeps the low 32 bits of a sum. -/
@[simp] theorem setWidth_addressSum (a32 : Bool) (v : Addr) : (addressSum a32 v).setWidth 32 = v.setWidth 32 := by
  cases a32 <;> simp [addressSum]

theorem setWidth_add_congr {v v' w w' : Addr} (h : v.setWidth 32 = v'.setWidth 32)
    (h' : w.setWidth 32 = w'.setWidth 32) : (v + w).setWidth 32 = (v' + w').setWidth 32 := by
  rw [BitVec.setWidth_add _ _ (by decide), BitVec.setWidth_add _ _ (by decide), h, h']

theorem setWidth_shiftLeft_congr {v w : Addr} (h : v.setWidth 32 = w.setWidth 32) (n : Nat) :
    (v <<< n).setWidth 32 = (w <<< n).setWidth 32 := by
  rw [BitVec.setWidth_shiftLeft_of_le (by decide), BitVec.setWidth_shiftLeft_of_le (by decide), h]

theorem State.setWidth_addressReg (s : State) (i : BitVec 4) :
    (s.addressReg true i).setWidth 32 = (s.addressReg false i).setWidth 32 := by
  simp [State.addressReg]

theorem State.setWidth_indexTerm (s : State) (ss : BitVec 2) (i : BitVec 4) :
    (s.indexTerm true ss i).setWidth 32 = (s.indexTerm false ss i).setWidth 32 := by
  unfold State.indexTerm
  split
  · rfl
  · exact setWidth_shiftLeft_congr (s.setWidth_addressReg i) _

/-- Truncating the registers before the sum does not change its low 32 bits. -/
theorem State.setWidth_effectiveAddress (s : State) (next : Addr) (m : MemOperand) :
    (s.effectiveAddress true next m).setWidth 32 = (s.effectiveAddress false next m).setWidth 32 := by
  unfold State.effectiveAddress
  rw [setWidth_addressSum, setWidth_addressSum]
  cases m with
  | base x b d => exact setWidth_add_congr (s.setWidth_addressReg b) rfl
  | ripDisp x bx d => rfl
  | sib ss i b d =>
    exact setWidth_add_congr (setWidth_add_congr (s.setWidth_addressReg b) (s.setWidth_indexTerm ss i)) rfl
  | sibNoBase ss i bx d => exact setWidth_add_congr (s.setWidth_indexTerm ss i) rfl

/-- Settles O38: the 32-bit sum is zero-extended, and its low 32 bits are those of the 64-bit one. -/
theorem addressSize32 : Obligations.AddressSize32 := by
  intro s next m
  rw [← State.setWidth_effectiveAddress]
  unfold State.effectiveAddress
  rw [setWidth_addressSum]
  rfl

/-! ## The segment (R57, R90) -/

theorem isSegment_of_overrideSegment {m : Mode} {p : LegacyPrefix} {g : Segment}
    (h : overrideSegment m p = some g) : p.isSegment = true := by
  cases p with
  | addrSize => cases h
  | es | cs | ss | ds | fs | gs => rfl

/-- R72: an admitted list of prefixes has at most one segment override. -/
theorem eq_of_legacyOk {m : Mode} {l : List LegacyPrefix} (h : legacyOk m l = true) {p q : LegacyPrefix}
    (hp : p ∈ l) (hq : q ∈ l) (hps : p.isSegment = true) (hqs : q.isSegment = true) : p = q := by
  obtain ⟨hlen, -⟩ := legacyOk_iff.1 h
  have hp' : p ∈ l.filter LegacyPrefix.isSegment := List.mem_filter.2 ⟨hp, hps⟩
  have hq' : q ∈ l.filter LegacyPrefix.isSegment := List.mem_filter.2 ⟨hq, hqs⟩
  generalize l.filter LegacyPrefix.isSegment = f at hlen hp' hq'
  match f, hlen with
  | [a], _ => rw [List.mem_singleton.1 hp', List.mem_singleton.1 hq']

section
variable {s : State} {ops : Operands} (m : MemOperand)

/-- An override that selects a segment is the only one, so its segment is that of the operand. -/
theorem State.segment_of_override {p : LegacyPrefix} {g : Segment} (hok : legacyOk s.cfg.mode ops.legacy = true)
    (hp : p ∈ ops.legacy) (hg : overrideSegment s.cfg.mode p = some g) : s.segment ops m = g := by
  have hfind : ops.legacy.findSome? (overrideSegment s.cfg.mode) = some g := by
    cases hf : ops.legacy.findSome? (overrideSegment s.cfg.mode) with
    | none =>
      have hnone := List.findSome?_eq_none_iff.1 hf p hp
      simp [hg] at hnone
    | some g' =>
      obtain ⟨q, hq, hg'⟩ := List.exists_of_findSome?_eq_some hf
      obtain rfl := eq_of_legacyOk hok hp hq (isSegment_of_overrideSegment hg) (isSegment_of_overrideSegment hg')
      rw [← hg, ← hg']
  rw [State.segment, hfind]

theorem State.segment_of_no_override (h : ∀ p ∈ ops.legacy, overrideSegment s.cfg.mode p = none) :
    s.segment ops m = defaultSegment m := by
  rw [State.segment, List.findSome?_eq_none_iff.2 h]

theorem State.segBase_mode32 (hm : s.cfg.mode = .mode32) (g : Segment) : s.segBase g = 0 := by
  simp [State.segBase, hm]

theorem State.segBase_mode64_of_ne (hm : s.cfg.mode = .mode64) {g : Segment} (hfs : g ≠ .fs) (hgs : g ≠ .gs) :
    s.segBase g = 0 := by
  cases g with
  | fs => exact absurd rfl hfs
  | gs => exact absurd rfl hgs
  | es | cs | ss | ds => simp [State.segBase, hm]

end

/-- Settles O39: the segment of the one override that selects one in the mode, else that of the base register. -/
theorem segmentOfMemoryOperand : Obligations.SegmentOfMemoryOperand := by
  intro s ops m hok
  have hov {p g} (hg : overrideSegment s.cfg.mode p = some g) (hp : p ∈ ops.legacy) : s.segment ops m = g :=
    State.segment_of_override m hok hp hg
  constructor
  · intro hm
    refine ⟨hov rfl, hov rfl, fun hfs hgs => ?_, by simp [State.segBase, hm], by simp [State.segBase, hm],
      fun g => State.segBase_mode64_of_ne hm⟩
    have hnone : ∀ p ∈ ops.legacy, overrideSegment s.cfg.mode p = none := by
      intro p hp
      cases p with
      | fs => exact absurd hp hfs
      | gs => exact absurd hp hgs
      | es | cs | ss | ds => exact if_neg (by simp [hm])
      | addrSize => rfl
    rw [State.segment_of_no_override m hnone]
    cases m <;> rfl
  · intro hm
    refine ⟨hov (if_pos hm), hov (if_pos hm), hov (if_pos hm), hov (if_pos hm), hov rfl, hov rfl,
      fun h67 => ?_, State.segBase_mode32 hm⟩
    have hnone : ∀ p ∈ ops.legacy, overrideSegment s.cfg.mode p = none := fun p hp => h67 p hp ▸ rfl
    rw [State.segment_of_no_override m hnone]
    cases m <;> rfl

end Sys2Proof.Machine
end

section
/-! What a step does with what stands at `rip` (R110 step 1): the decoder answers on the bytes that are fetched what it
answers on a list of them, and the step follows its answer. -/

namespace Sys2Proof
open Machine

/-! ## A reader that answers at least what another answers -/

/-- Wherever `x` has an answer, `y` has it too. -/
def Follows {ε ε' α : Type} (x : Except ε α) (y : Except ε' α) : Prop := ∀ a, x = .ok a → y = .ok a

section
variable {ε ε' α β : Type}

theorem Follows.ok (a : α) : Follows (.ok a : Except ε α) (.ok a : Except ε' α) := by
  rintro b ⟨⟩
  rfl

theorem Follows.error {e : ε} {y : Except ε' α} : Follows (.error e) y := nofun

theorem Follows.ite {c : Prop} [Decidable c] {x x' : Except ε α} {y y' : Except ε' α} (h : Follows x y)
    (h' : Follows x' y') : Follows (if c then x else x') (if c then y else y') := by
  split_ifs
  · exact h
  · exact h'

theorem Follows.bind {x : Except ε α} {y : Except ε' α} {f : α → Except ε β} {g : α → Except ε' β}
    (hxy : Follows x y) (hfg : ∀ a, Follows (f a) (g a)) : Follows (x >>= f) (y >>= g) := by
  intro b hb
  obtain ⟨a, hx, hf⟩ := except_bind_eq_ok.1 hb
  rw [hxy a hx, except_ok_bind, hfg a b hf]

end

section
variable {ε ε' : Type} {rd : Nat → Except ε Byte} {rd' : Nat → Except ε' Byte}

/-- The scan as a sequence of reads: the first byte, then the rest of the prefixes (R96). -/
theorem scanPrefixes_succ (m : Mode) (rd : Nat → Except ε Byte) (fuel k : Nat) :
    scanPrefixes m rd (fuel + 1) k = rd k >>= fun b =>
      if (LegacyPrefix.ofByte b).isSome ∨ forbiddenPrefix m b = true then
        scanPrefixes m rd fuel (k + 1) >>= fun sc => .ok (sc.map fun sc =>
          { sc with legacy := (LegacyPrefix.ofByte b).toList ++ sc.legacy
                    forbidden := sc.forbidden || forbiddenPrefix m b })
      else .ok (some { legacy := [], forbidden := false, pos := k, byte := b }) := by
  rw [scanPrefixes]
  cases rd k with
  | error e => rfl
  | ok b =>
    rw [except_ok_bind]
    cases hp : LegacyPrefix.ofByte b with
    | some p =>
      have hfb := forbiddenPrefix_of_ofByte (m := m) hp
      obtain e | none | sc := scanPrefixes m rd fuel (k + 1) <;> simp [hp, hfb, bind, Except.bind]
    | none =>
      by_cases hfb : forbiddenPrefix m b = true
      · obtain e | none | sc := scanPrefixes m rd fuel (k + 1) <;> simp [hp, hfb, bind, Except.bind]
      · simp [hp, hfb]

theorem scanPrefixes_follows (h : ∀ k, Follows (rd k) (rd' k)) (m : Mode) (fuel k : Nat) :
    Follows (scanPrefixes m rd fuel k) (scanPrefixes m rd' fuel k) := by
  induction fuel generalizing k with
  | zero => exact .ok none
  | succ fuel ih =>
    rw [scanPrefixes_succ, scanPrefixes_succ]
    exact (h k).bind fun b => .ite ((ih (k + 1)).bind fun sc => .ok _) (.ok _)

theorem readDisp32_follows (h : ∀ k, Follows (rd k) (rd' k)) (k : Nat) :
    Follows (readDisp32 rd k) (readDisp32 rd' k) :=
  (h _).bind fun _ => (h _).bind fun _ => (h _).bind fun _ => (h _).bind fun _ => .ok _

theorem readDisp_follows (h : ∀ k, Follows (rd k) (rd' k)) (mod : BitVec 2) (k : Nat) :
    Follows (readDisp rd mod k) (readDisp rd' mod k) :=
  .ite ((h _).bind fun _ => .ok _) (.ite ((readDisp32_follows h _).bind fun _ => .ok _) (.ok _))

theorem readMemOperand_follows (h : ∀ k, Follows (rd k) (rd' k)) (mod : BitVec 2) (rm : BitVec 3)
    (x b : BitVec 1) (k : Nat) :
    Follows (readMemOperand rd mod rm x b k) (readMemOperand rd' mod rm x b k) :=
  .ite ((h _).bind fun _ => .ite ((readDisp32_follows h _).bind fun _ => .ok _)
      ((readDisp_follows h _ _).bind fun _ => .ok _))
    (.ite ((readDisp32_follows h _).bind fun _ => .ok _) ((readDisp_follows h _ _).bind fun _ => .ok _))

theorem decodeOperand3_follows (h : ∀ k, Follows (rd k) (rd' k)) (sc : PrefixScan) (hd : EvexHead)
    (mk : Operands → Instr) : Follows (decodeOperand3 rd sc hd mk) (decodeOperand3 rd' sc hd mk) :=
  .ite (.ok _) ((readMemOperand_follows h _ _ _ _ _).bind fun _ => .ok _)

theorem decodeEvex_follows (h : ∀ k, Follows (rd k) (rd' k)) (m : Mode) (sc : PrefixScan) :
    Follows (decodeEvex m rd sc) (decodeEvex m rd' sc) := by
  refine .ite (.ok _) <| .ite (.ok _) <| .ite (.ok _) <| (h _).bind fun p0 => .ite (.ok _) <| .ite (.ok _) <|
    (h _).bind fun p1 => .ite (.ok _) <| .ite (.ok _) <| .ite (.ok _) <|
    (h _).bind fun p2 => .ite (.ok _) <| (h _).bind fun opc => ?_
  cases opcodeTable.lookup opc with
  | none => exact .ok _
  | some mk => exact (h _).bind fun modrm => decodeOperand3_follows h sc _ mk

/-- The decoder decides on the bytes it has read: a reader that answers more does not change its answer (log 15). -/
theorem decodeFrom_follows (h : ∀ k, Follows (rd k) (rd' k)) (m : Mode) :
    Follows (decodeFrom m rd) (decodeFrom m rd') := by
  unfold decodeFrom
  cases hs : scanPrefixes m rd prefixFuel 0 with
  | error e => exact .error
  | ok sc =>
    rw [scanPrefixes_follows h m prefixFuel 0 sc hs]
    cases sc with
    | none => exact .ok _
    | some sc => exact decodeEvex_follows h m sc

end

/-- A reader that answers the bytes of a list answers at least what the list does. -/
theorem readList_follows {ε : Type} {rd : Nat → Except ε Byte} {bytes : List Byte}
    (h : ∀ (k : Nat) (hk : k < bytes.length), rd k = .ok bytes[k]) (k : Nat) : Follows (readList bytes k) (rd k) := by
  intro b hb
  by_cases hk : k < bytes.length
  · rw [h k hk]
    simpa [readList, hk] using hb
  · simp [readList, hk] at hb

theorem decodeFrom_of_decode {ε : Type} {m : Mode} {rd : Nat → Except ε Byte} {bytes : List Byte}
    (h : ∀ (k : Nat) (hk : k < bytes.length), rd k = .ok bytes[k]) (hd : decode m bytes ≠ .refused .truncated) :
    decodeFrom m rd = .ok (decode m bytes) := by
  refine decodeFrom_follows (readList_follows h) m _ ?_
  cases hl : decodeFrom m (readList bytes) with
  | ok d => rw [decode_of_decodeFrom hl]
  | error e => exact absurd (by simp [decode, hl]) hd

end Sys2Proof

namespace Sys2Proof.Machine

/-! ## The step on each answer of the decoder (R94, R95, log 14, 25) -/

theorem step_of_not_admissible {s : State} (h : s.admissible = false) : step s = .refused .inadmissibleState := by
  simp [step, fetchAndRun, h]

section
variable {s : State} {i : Instr} (ha : s.admissible = true)
include ha

theorem step_of_instr (hd : decodeFrom s.cfg.mode s.fetchByte = .ok (.instr i))
    (hr : s.registersExist i.ops = true) : step s = exec i s := by
  simp [step, fetchAndRun, ha, hd, hr]

theorem step_of_no_register (hd : decodeFrom s.cfg.mode s.fetchByte = .ok (.instr i))
    (hr : s.registersExist i.ops = false) : step s = .refused .noSuchRegister := by
  simp [step, fetchAndRun, ha, hd, hr]

theorem step_of_ud (hd : decodeFrom s.cfg.mode s.fetchByte = .ok .ud) : step s = .fault (.ud s) := by
  simp [step, fetchAndRun, ha, hd, Exception.toFault]

theorem step_of_gp0 (hd : decodeFrom s.cfg.mode s.fetchByte = .ok .gp0) : step s = .fault (.gp s) := by
  simp [step, fetchAndRun, ha, hd, Exception.toFault]

theorem step_of_refused {why : RejectReason} (hd : decodeFrom s.cfg.mode s.fetchByte = .ok (.refused why)) :
    step s = .refused (.undefinedEncoding why) := by
  simp [step, fetchAndRun, ha, hd]

end

theorem State.registersExist_iff {s : State} {ops : Operands} :
    s.registersExist ops = true ↔ ops.dest.toNat < s.cfg.nVReg ∧ ops.src2.toNat < s.cfg.nVReg ∧
      ∀ s3 rc, ops.src3 = .reg s3 rc → s3.toNat < s.cfg.nVReg := by
  cases h3 : ops.src3 with
  | reg s3 rc => simp [State.registersExist, h3, and_assoc]
  | mem ll m => simp [State.registersExist, h3]

/-- Settles O8: the step's fetch decodes as the list does, and each answer has its equation. -/
theorem stepFollowsTheDecoder : Obligations.StepFollowsTheDecoder := by
  intro s bytes
  refine ⟨step_of_not_admissible, fun ha hbytes => ?_⟩
  have hdec := decodeFrom_of_decode (m := s.cfg.mode) hbytes
  cases hd : decode s.cfg.mode bytes with
  | ud => exact step_of_ud ha (by simpa [hd] using hdec)
  | gp0 => exact step_of_gp0 ha (by simpa [hd] using hdec)
  | instr i =>
    have hi : decodeFrom s.cfg.mode s.fetchByte = .ok (.instr i) := by simpa [hd] using hdec
    refine ⟨fun hdest hsrc2 hsrc3 => step_of_instr ha hi (State.registersExist_iff.2 ⟨hdest, hsrc2, hsrc3⟩),
      fun hmissing => step_of_no_register ha hi (eq_false_of_ne_true fun hr => ?_)⟩
    obtain ⟨hdest, hsrc2, hsrc3⟩ := State.registersExist_iff.1 hr
    obtain h | h | ⟨s3, rc, hreg, h⟩ := hmissing
    · exact Nat.not_lt.2 h hdest
    · exact Nat.not_lt.2 h hsrc2
    · exact Nat.not_lt.2 h (hsrc3 s3 rc hreg)
  | refused why =>
    have hwhy : why ≠ .truncated → step s = .refused (.undefinedEncoding why) := fun hne =>
      step_of_refused ha (by simpa [hd, hne] using hdec)
    cases why with
    | truncated => trivial
    | _ => exact hwhy nofun

/-- A number that the mode can name is below `NVREG` at the values of R7. -/
theorem Config.lt_nVReg {c : Config} (h64 : c.nVReg64 = 32) (h32 : c.nVReg32 = 8) {v : BitVec 5}
    (hv : regOk c.mode v.toNat = true) : v.toNat < c.nVReg := by
  cases hm : c.mode with
  | mode64 => simpa [Config.nVReg, hm, h64] using v.isLt
  | mode32 => simpa [Config.nVReg, hm, h32, regOk] using hv

/-- Settles O7: the encoding at `rip` is decoded to its instruction, whose register numbers the mode can name. -/
theorem stepRunsTheDecodedInstruction : Obligations.StepRunsTheDecodedInstruction := by
  intro s i ha hwf hbytes
  have hdec := decodeFrom_encode hwf (readsAt_iff_getElem.2 (by simpa using hbytes))
  refine ⟨step_of_instr ha hdec, fun h64 h32 => State.registersExist_iff.2 ?_⟩
  obtain ⟨-, hdest, hsrc2, hsrc3, -⟩ := Operands.wf_iff.1 hwf
  refine ⟨Config.lt_nVReg h64 h32 hdest, Config.lt_nVReg h64 h32 hsrc2, fun s3 rc h3 => ?_⟩
  rw [h3] at hsrc3
  exact Config.lt_nVReg h64 h32 hsrc3

end Sys2Proof.Machine
end

section
/-! The results of the six instructions (R110 to R125): what operand 3 is, what an instruction does whose mask bit is 1,
and that the arithmetic traps on no operand when every exception is masked. -/

namespace Sys2Proof.Machine

/-! ## Operand 3 (R50, R111, R207) -/

theorem State.alignFault_none {s : State} {la : Addr} :
    s.alignFault la = none ↔ (s.acActive = true → la.toNat % 2 = 0) := by
  have hodd : la.getLsbD 0 = decide (la.toNat % 2 = 1) := by
    rw [BitVec.getLsbD, Nat.testBit_zero]
  rw [State.alignFault, hodd]
  cases s.acActive <;> simp

/-- A memory operand 3 is read exactly where its access raises nothing (R110 step 5). -/
theorem State.readSrc3_mem_ok_iff {s : State} {ops : Operands} {ll : BitVec 2} {m : MemOperand}
    (h3 : ops.src3 = .mem ll m) : (∃ b, s.readSrc3 ops = .ok b) ↔ s.accessFault ops m = none := by
  cases hf : s.accessFault ops m <;> simp [State.readSrc3, h3, hf]

theorem State.readM16_bytes (s : State) (la : Addr) :
    (s.readM16 la).extractLsb' 0 8 = s.readByte la ∧ (s.readM16 la).extractLsb' 8 8 = s.readByte (la + 1) := by
  unfold State.readM16
  generalize s.readByte la = low
  generalize s.readByte (la + 1) = high
  grind

/-- Settles O40: the register form reads element 0, the memory form the two bytes where `checkM16` raises nothing. -/
theorem memoryOperandRead : Obligations.MemoryOperandRead := by
  refine ⟨fun s ops s3 rc h3 => State.readSrc3_reg h3, fun s ops ll m h3 => ⟨?_, fun b hb => ?_⟩⟩
  · rw [State.readSrc3_mem_ok_iff h3, State.accessFault, State.checkM16_none, State.alignFault_none]
  · obtain ⟨-, rfl⟩ := State.readSrc3_mem_ok h3 hb
    exact s.readM16_bytes _

/-! ## An instruction whose mask bit is 1 (R110 steps 5 to 8) -/

section
variable {i : Instr} {s : State} {b : Half}

/-- Enabled, with the mask bit 1 and operand 3 read, an instruction ends as its arithmetic does. -/
theorem exec_of_readSrc3 (he : s.Enabled) (hl : s.lengthUd i.ops.src3 = false)
    (hm : s.maskBit i.ops.mask = true) (hb : s.readSrc3 i.ops = .ok b) :
    exec i s = finish i.ops (s.outcome i b) s := by
  obtain ⟨husable, hts⟩ := he
  simp [exec_eq_execFms, execFms, husable, hts, hl, hm, hb, outcome_eq_arithmetic]

/-- Where the arithmetic answers a result, it is committed (R110 step 8). -/
theorem exec_of_result {r : Half} {f : FpFlags} (he : s.Enabled) (hl : s.lengthUd i.ops.src3 = false)
    (hm : s.maskBit i.ops.mask = true) (hb : s.readSrc3 i.ops = .ok b) (hr : s.outcome i b = .result r f) :
    exec i s = .next (s.commit i.ops.dest r f i.length) := by
  rw [exec_of_readSrc3 he hl hm hb, hr]
  rfl

theorem exec_completes {r : Half} {f : FpFlags} (he : s.Enabled) (hl : s.lengthUd i.ops.src3 = false)
    (hm : s.maskBit i.ops.mask = true) (hb : s.readSrc3 i.ops = .ok b) (hr : s.outcome i b = .result r f) :
    ∃ t, exec i s = .next t ∧ Completed s t i.ops.dest r f i.length s.draws :=
  ⟨_, exec_of_result he hl hm hb hr, completed_commit ..⟩

end

/-! Each of the six formulas is `State.outcome` of its instruction by definition. -/

/-- Settles O21: the formula is D × B − A. -/
theorem vfmsub132shResult : Obligations.Vfmsub132shResult :=
  fun ops _ _ _ _ he hl hm hb hr => exec_completes (i := .vfmsub132sh ops) he hl hm hb hr

/-- Settles O22: the formula is A × D − B. -/
theorem vfmsub213shResult : Obligations.Vfmsub213shResult :=
  fun ops _ _ _ _ he hl hm hb hr => exec_completes (i := .vfmsub213sh ops) he hl hm hb hr

/-- Settles O23: the formula is A × B − D. -/
theorem vfmsub231shResult : Obligations.Vfmsub231shResult :=
  fun ops _ _ _ _ he hl hm hb hr => exec_completes (i := .vfmsub231sh ops) he hl hm hb hr

/-- Settles O24: the formula is −(D × B) − A. -/
theorem vfnmsub132shResult : Obligations.Vfnmsub132shResult :=
  fun ops _ _ _ _ he hl hm hb hr => exec_completes (i := .vfnmsub132sh ops) he hl hm hb hr

/-- Settles O25: the formula is −(A × D) − B. -/
theorem vfnmsub213shResult : Obligations.Vfnmsub213shResult :=
  fun ops _ _ _ _ he hl hm hb hr => exec_completes (i := .vfnmsub213sh ops) he hl hm hb hr

/-- Settles O26: the formula is −(A × B) − D. -/
theorem vfnmsub231shResult : Obligations.Vfnmsub231shResult :=
  fun ops _ _ _ _ he hl hm hb hr => exec_completes (i := .vfnmsub231sh ops) he hl hm hb hr

/-! ## The worked lines -/

/-- The environment under MXCSR = 1F80H without embedded rounding: to nearest, every exception masked. -/
theorem State.fmsEnv_of_default {s : State} {op3 : Operand3} (hmx : s.mxcsr = 0x1F80)
    (hop : ∀ s3 rm, op3 ≠ .reg s3 (.embedded rm)) :
    s.fmsEnv op3 = ⟨.rn, FpMasks.all, false, false, false, s.cfg.fp⟩ := by
  match op3 with
  | .reg s3 (.embedded rm) => exact absurd rfl (hop s3 rm)
  | .reg s3 (.dynamic ll) => simp only [State.fmsEnv, hmx]; rfl
  | .mem ll m => simp only [State.fmsEnv, hmx]; rfl

/-- Settles O28: the environment is that of `fmsEnv_of_default`, and each line is a computation on it. -/
theorem workedLines : Obligations.WorkedLines := by
  intro ops s he hfp hl hm hmx hd ha hb hop
  have henv := State.fmsEnv_of_default hmx hop
  rw [hfp] at henv
  have hline (i : Instr) (r : Half) (hi : i.ops = ops) (hr : s.outcome i 0x4200 = .result r FpFlags.empty) :
      ∃ t, exec i s = .next t ∧ t.readHalf ops.dest = r ∧ t.mxcsr = s.mxcsr := by
    subst hi
    exact ⟨_, exec_of_result he hl hm hb hr, (completed_commit ..).low, by simp⟩
  refine ⟨hline _ _ rfl ?_, hline _ _ rfl ?_, hline _ _ rfl ?_, hline _ _ rfl ?_, hline _ _ rfl ?_,
    hline _ _ rfl ?_⟩ <;> simp only [State.outcome, Instr.ops, henv, hd, ha] <;> decide

end Sys2Proof.Machine
end

section
/-! The arithmetic as a function of its environment and of its first two operands (R126, R154, R155, R171): it answers a
result when every exception is masked, does not read DAZ and FTZ where they are not honoured, and multiplies in either
order. -/

namespace Sys2Proof.Machine

/-! ## With every exception masked no step of FMS16 traps (R154, R173 (3)) -/

/-- The outcome is a result. -/
def FmsOutcome.Delivers : FmsOutcome → Prop
  | .result _ _ => True
  | .trap _ => False

theorem FmsOutcome.delivers_iff {o : FmsOutcome} : o.Delivers ↔ ∃ r f, o = .result r f := by
  cases o <;> simp [FmsOutcome.Delivers]

@[simp] theorem FmsOutcome.delivers_result (r : Half) (f : FpFlags) : (FmsOutcome.result r f).Delivers := trivial

theorem FmsOutcome.Delivers.ite {c : Prop} [Decidable c] {o o' : FmsOutcome} (h : o.Delivers) (h' : o'.Delivers) :
    (if c then o else o').Delivers := by
  split_ifs
  · exact h
  · exact h'

theorem overflow_delivers (rm : RoundMode) (s inexact : Bool) (f : FpFlags) :
    (overflow rm FpMasks.all s inexact f).Delivers := trivial

theorem tiny_delivers (rm : RoundMode) (flush s : Bool) (mag : Nat) (f : FpFlags) :
    (tiny rm FpMasks.all flush s mag f).Delivers :=
  .ite trivial (.ite trivial trivial)

theorem normal_delivers (s inexact : Bool) (e n : Nat) (f : FpFlags) :
    (normal FpMasks.all s inexact e n f).Delivers :=
  .ite trivial trivial

theorem roundFP_delivers (rm : RoundMode) (flush s : Bool) (mag : Nat) (f : FpFlags) :
    (roundFP rm FpMasks.all flush s mag f).Delivers :=
  .ite (overflow_delivers ..) (.ite (tiny_delivers ..) (normal_delivers ..))

theorem nanResult_delivers (p : FpParams) (x y z : Half) : (nanResult p FpMasks.all x y z).Delivers := by
  simp [nanResult, FpMasks.all]

theorem finiteSteps_delivers (rm : RoundMode) (flush neg : Bool) (x y z : Half) :
    (finiteSteps rm FpMasks.all flush neg x y z).Delivers := by
  have hdm (de : Bool) : (de && !FpMasks.all.dm) = false := by simp [FpMasks.all]
  simp only [finiteSteps, hdm, Bool.false_eq_true, if_false]
  exact .ite trivial (.ite trivial (.ite trivial (roundFP_delivers ..)))

theorem fmsSteps_delivers (e : FmsEnv) (neg : Bool) (x y z : Half) : (fmsSteps e FpMasks.all neg x y z).Delivers :=
  .ite (nanResult_delivers ..) (.ite trivial (finiteSteps_delivers ..))

/-- Under `sae`, or with every exception masked, `FMS16` answers a result. -/
theorem fms16_delivers {e : FmsEnv} (h : e.masks = FpMasks.all ∨ e.sae = true) (neg : Bool) (x y z : Half) :
    (fms16 e neg x y z).Delivers := by
  obtain ⟨r, f, hsteps⟩ := FmsOutcome.delivers_iff.1 (fmsSteps_delivers e neg x y z)
  unfold fms16
  obtain hmasks | hsae := h
  · rw [hmasks, hsteps]
    exact .ite trivial trivial
  · rw [hsae, hsteps]
    trivial

theorem State.mxcsrMasks_of_allMasked {s : State} (h : s.AllMasked) : mxcsrMasks s.mxcsr = FpMasks.all := by
  obtain ⟨him, hdm, hom, hum, hpm⟩ := h
  rw [mxcsrMasks, him, hdm, hom, hum, hpm]
  rfl

/-- Settles O27: the arithmetic delivers a result, which is committed. -/
theorem allSixCompleteWhenMasked : Obligations.AllSixCompleteWhenMasked := by
  intro i s b he hl hm hb hmasked
  have henv : (s.fmsEnv i.ops.src3).masks = FpMasks.all ∨ (s.fmsEnv i.ops.src3).sae = true := by
    obtain hall | ⟨s3, rm, h3⟩ := hmasked
    · exact .inl (State.mxcsrMasks_of_allMasked hall)
    · exact .inr (by rw [h3]; rfl)
  obtain ⟨r, f, hr⟩ : ∃ r f, s.outcome i b = .result r f := by
    rw [outcome_eq_arithmetic]
    exact FmsOutcome.delivers_iff.1 (fms16_delivers henv ..)
  obtain ⟨t, ht, hc⟩ := exec_completes he hl hm hb hr
  exact ⟨t, r, f, ht, hr, hc⟩

/-! ## The order of the two factors (R126 (2)) -/

theorem isNaN_dazOperand {daz : Bool} {h : Half} (hn : isNaN h = false) : isNaN (dazOperand daz h) = false := by
  unfold dazOperand
  split_ifs
  · cases signOf h <;> rfl
  · exact hn

section
variable (x y : Half)

theorem productSign_comm (neg : Bool) : productSign neg x y = productSign neg y x := by
  rw [productSign, productSign, Bool.xor_comm (signOf x)]

theorem zeroTimesInf_comm : zeroTimesInf x y = zeroTimesInf y x := by
  rw [zeroTimesInf, zeroTimesInf, Bool.or_comm, Bool.and_comm (isInf x), Bool.and_comm (isZero x)]

theorem invalidOp_comm (neg : Bool) (z : Half) : invalidOp neg x y z = invalidOp neg y x z := by
  rw [invalidOp, invalidOp, zeroTimesInf_comm, Bool.or_comm (isInf x), productSign_comm]

theorem exactValue_comm (neg : Bool) (z : Half) : exactValue neg x y z = exactValue neg y x z := by
  rw [exactValue, exactValue, mul_comm (intVal x)]

theorem exactZeroSign_comm (rm : RoundMode) (neg : Bool) (z : Half) :
    exactZeroSign rm neg x y z = exactZeroSign rm neg y x z := by
  rw [exactZeroSign, exactZeroSign, Bool.or_comm (isZero x), productSign_comm]

theorem finiteSteps_comm (rm : RoundMode) (m : FpMasks) (flush neg : Bool) (z : Half) :
    finiteSteps rm m flush neg x y z = finiteSteps rm m flush neg y x z := by
  rw [finiteSteps, finiteSteps, Bool.or_comm (isDen x), Bool.or_comm (isInf x), productSign_comm,
    exactValue_comm, exactZeroSign_comm]

end

/-- Only which NaN is propagated depends on the order of the factors (R157). -/
theorem fms16_comm {x y z : Half} (hx : isNaN x = false) (hy : isNaN y = false) (hz : isNaN z = false) (e : FmsEnv)
    (neg : Bool) : fms16 e neg x y z = fms16 e neg y x z := by
  have hsteps (m : FpMasks) : fmsSteps e m neg x y z = fmsSteps e m neg y x z := by
    simp only [fmsSteps, isNaN_dazOperand hx, isNaN_dazOperand hy, isNaN_dazOperand hz, Bool.or_self,
      Bool.false_eq_true, if_false]
    rw [invalidOp_comm, finiteSteps_comm]
  rw [fms16, fms16, hsteps, hsteps]

/-- With the sources of 132 exchanged, 213 multiplies the same two values and subtracts the same third. -/
theorem execFms_132_eq_213 {ops : Operands} {s : State} {s3 : BitVec 5} {rc : RoundCtl} (neg : Bool)
    (h3 : ops.src3 = .reg s3 rc) (hd : isNaN (s.readHalf ops.dest) = false)
    (ha : isNaN (s.readHalf ops.src2) = false) (hb : isNaN (s.readHalf s3) = false) :
    execFms neg .o132 ops s = execFms neg .o213 { ops with src2 := s3, src3 := .reg ops.src2 rc } s := by
  have hform : s.lengthUd (.reg s3 rc) = s.lengthUd (.reg ops.src2 rc) ∧
      s.fmsEnv (.reg s3 rc) = s.fmsEnv (.reg ops.src2 rc) := by
    cases rc <;> exact ⟨rfl, rfl⟩
  obtain ⟨hud, henv⟩ := hform
  have harith (e : FmsEnv) : arithmetic neg .o132 e (s.readHalf ops.dest) (s.readHalf ops.src2) (s.readHalf s3) =
      arithmetic neg .o213 e (s.readHalf ops.dest) (s.readHalf s3) (s.readHalf ops.src2) :=
    fms16_comm hd hb ha e neg
  simp only [execFms, finish, Operands.length, Operand3.length, State.readSrc3, State.maskedOffSrc3, h3, hud, henv,
    harith]

/-- Settles O32: both are the shared execution, of one sign. -/
theorem forms132And213Agree : Obligations.Forms132And213Agree := fun _ _ _ _ h3 hd ha hb =>
  ⟨execFms_132_eq_213 false h3 hd ha hb, execFms_132_eq_213 true h3 hd ha hb⟩

end Sys2Proof.Machine
end

section
/-! What the outcome of an instruction is a function of (R133): two states that `AgreeFor` it give each operation of its
execution the same values, and so they end in the same way. -/

namespace Sys2Proof.Machine

/-! ## The arithmetic without DAZ and FTZ (R33, R171) -/

/-- Where DAZ and FTZ are not honoured the arithmetic does not read them. -/
theorem fms16_congr_env {e e' : FmsEnv} (hrm : e'.rm = e.rm) (hmasks : e'.masks = e.masks) (hsae : e'.sae = e.sae)
    (hparams : e'.params = e.params) (hdaz : e.params.honoursDazFtz = false) (neg : Bool) (x y z : Half) :
    fms16 e' neg x y z = fms16 e neg x y z := by
  have hsteps (m : FpMasks) : fmsSteps e' m neg x y z = fmsSteps e m neg x y z := by
    simp only [fmsSteps, hrm, hparams, hdaz, Bool.false_and]
  rw [fms16, fms16, hsteps, hsteps, hsae, hmasks]

/-! ## Fields of equal slices -/

theorem getLsbD_of_extractLsb' {w start len : Nat} {v v' : BitVec w}
    (h : v.extractLsb' start len = v'.extractLsb' start len) {i : Nat} (hs : start ≤ i) (hl : i < start + len) :
    v.getLsbD i = v'.getLsbD i := by
  have hi := congrArg (BitVec.getLsbD · (i - start)) h
  simpa [show i - start < len by omega, show start + (i - start) = i by omega] using hi

theorem extractLsb'_of_extractLsb' {w start len : Nat} {v v' : BitVec w}
    (h : v.extractLsb' start len = v'.extractLsb' start len) {i n : Nat} (hs : start ≤ i) (hl : i + n ≤ start + len) :
    v.extractLsb' i n = v'.extractLsb' i n := by
  apply BitVec.eq_of_getLsbD_eq
  intro j hj
  simp [hj, getLsbD_of_extractLsb' h (show start ≤ i + j by omega) (by omega)]

/-- The new destination takes bits 127:16 of the old. -/
theorem destValue_congr {w : VectorWidth} {old old' : VecReg}
    (h : old.extractLsb' 0 128 = old'.extractLsb' 0 128) (low : Half) : destValue w old low = destValue w old' low := by
  rw [destValue, destValue, extractLsb'_of_extractLsb' h (by decide) (by decide)]

/-! ## The checks of an access -/

theorem State.canonicalAt_congr {s u : State} (hcfg : u.cfg = s.cfg) (a : Addr) :
    u.canonicalAt a = s.canonicalAt a := by
  rw [State.canonicalAt, State.canonicalAt, hcfg]

theorem State.pageFault16_congr {s u : State} (hcfg : u.cfg = s.cfg) (la : Addr) :
    u.pageFault16 la = s.pageFault16 la := by
  have htranslate (a : Addr) : u.translate a .read = s.translate a .read := by
    rw [State.translate, State.translate, hcfg]
  rw [State.pageFault16, State.pageFault16, htranslate, htranslate]

theorem State.alignFault_congr {s u : State} (hsys : u.sys = s.sys) (la : Addr) :
    u.alignFault la = s.alignFault la := by
  rw [State.alignFault, State.alignFault, State.acActive, State.acActive, hsys]

theorem State.acBeforePf_congr {s u : State} (hcfg : u.cfg = s.cfg) (hdraws : u.draws = s.draws) :
    u.acBeforePf = s.acBeforePf := by
  rw [State.acBeforePf, State.acBeforePf, hcfg, hdraws]

theorem State.checkM16_congr {s u : State} (hcfg : u.cfg = s.cfg) (hsys : u.sys = s.sys) (hdraws : u.draws = s.draws)
    (seg : Segment) (la : Addr) : u.checkM16 seg la = s.checkM16 seg la := by
  rw [State.checkM16, State.checkM16, State.canonicalAt_congr hcfg, State.canonicalAt_congr hcfg,
    State.alignFault_congr hsys, State.pageFault16_congr hcfg, State.acBeforePf_congr hcfg hdraws]

theorem State.segBase_congr {s u : State} (hcfg : u.cfg = s.cfg) (hsys : u.sys = s.sys) (seg : Segment) :
    u.segBase seg = s.segBase seg := by
  unfold State.segBase
  rw [hcfg, hsys]

theorem State.indexTerm_congr {s u : State} {i : BitVec 4} (hi : i ≠ 4 → u.readGpr i = s.readGpr i) (a32 : Bool)
    (ss : BitVec 2) : u.indexTerm a32 ss i = s.indexTerm a32 ss i := by
  by_cases h4 : i = 4
  · rw [State.indexTerm, State.indexTerm, if_pos h4, if_pos h4]
  · rw [State.indexTerm, State.indexTerm, State.addressReg, State.addressReg, hi h4]

/-! ## What two states that agree give an execution -/

namespace State.AgreeFor

section
variable {ops : Operands} {s u : State} (h : State.AgreeFor ops s u)
include h

theorem readHalf_dest : u.readHalf ops.dest = s.readHalf ops.dest :=
  extractLsb'_of_extractLsb' h.dest (by decide) (by decide)

theorem lengthUd (op3 : Operand3) : u.lengthUd op3 = s.lengthUd op3 := by
  unfold State.lengthUd
  rw [h.cfg]

theorem nextRip (len : Nat) : u.nextRip len = s.nextRip len := by
  rw [State.nextRip, State.nextRip, h.cfg, h.rip]

theorem segment (m : MemOperand) : u.segment ops m = s.segment ops m := by
  rw [State.segment, State.segment, h.cfg]

/-- The effective address reads the named registers only (R84 to R86). -/
theorem effectiveAddress {m : MemOperand} (hg : ∀ r, NamesReg m r → u.readGpr r = s.readGpr r) (a32 : Bool)
    (next : Addr) : u.effectiveAddress a32 next m = s.effectiveAddress a32 next m := by
  unfold State.effectiveAddress
  congr 1
  cases m with
  | base x b d => simp only [State.addressReg, hg b rfl]
  | ripDisp x bx d => simp only [h.cfg]
  | sib ss i b d => simp only [State.addressReg, hg b (.inl rfl), 
      State.indexTerm_congr fun hi => hg i (.inr ⟨rfl, hi⟩)]
  | sibNoBase ss i bx d => simp only [State.indexTerm_congr fun hi => hg i ⟨rfl, hi⟩]

theorem linearAddress {ll : BitVec 2} {m : MemOperand} (h3 : ops.src3 = .mem ll m) :
    u.linearAddress ops m = s.linearAddress ops m := by
  rw [State.linearAddress, State.linearAddress, h.segment, h.nextRip, h.effectiveAddress (h.gpr ll m h3),
    State.segBase_congr h.cfg h.sys, State.address32, State.address32, h.cfg]

theorem accessFault {ll : BitVec 2} {m : MemOperand} (h3 : ops.src3 = .mem ll m) :
    u.accessFault ops m = s.accessFault ops m := by
  rw [State.accessFault, State.accessFault, h.segment, h.linearAddress h3,
    State.checkM16_congr h.cfg h.sys h.draws]

theorem readSrc3 : u.readSrc3 ops = s.readSrc3 ops := by
  cases h3 : ops.src3 with
  | reg s3 rc => rw [State.readSrc3_reg h3, State.readSrc3_reg h3, h.src3 s3 rc h3]
  | mem ll m =>
    simp only [State.readSrc3, h3, h.accessFault h3, h.linearAddress h3, State.readM16, h.low ll m h3, h.high ll m h3]

theorem maskedOffSrc3 : u.maskedOffSrc3 ops = s.maskedOffSrc3 ops := by
  cases h3 : ops.src3 with
  | reg s3 rc => simp only [State.maskedOffSrc3, h3, h.draws]
  | mem ll m => simp only [State.maskedOffSrc3, h3, h.accessFault h3, h.cfg, h.draws]

/-- The masks and the rounding mode are in `MXCSR[14:7]`. -/
theorem arithmetic (hdaz : s.cfg.fp.honoursDazFtz = false) (neg : Bool) (order : OperandOrder) (D A B : Half) :
    arithmetic neg order (u.fmsEnv ops.src3) D A B = arithmetic neg order (s.fmsEnv ops.src3) D A B := by
  have hrc : mxcsrRC u.mxcsr = mxcsrRC s.mxcsr :=
    congrArg RoundMode.ofBits (extractLsb'_of_extractLsb' h.control (by decide) (by decide))
  have hbit {i : Nat} (h7 : 7 ≤ i) (h15 : i < 15) : u.mxcsr.getLsbD i = s.mxcsr.getLsbD i :=
    getLsbD_of_extractLsb' h.control h7 h15
  have hmasks : mxcsrMasks u.mxcsr = mxcsrMasks s.mxcsr := by
    simp only [mxcsrMasks, hbit, Nat.reduceLeDiff, Nat.reduceLT]
  have hrm : (u.fmsEnv ops.src3).rm = (s.fmsEnv ops.src3).rm := by
    simp only [State.fmsEnv, hrc]
  exact fms16_congr_env hrm hmasks rfl (congrArg Config.fp h.cfg) hdaz ..

theorem flags_orFlags (f : FpFlags) :
    (orFlags u.mxcsr f).extractLsb' 0 6 = (orFlags s.mxcsr f).extractLsb' 0 6 := by
  rw [orFlags_flags, orFlags_flags, h.flags]

theorem readZmm_commit (low : Half) (f : FpFlags) (len : Nat) :
    (u.commit ops.dest low f len).readZmm ops.dest = (s.commit ops.dest low f len).readZmm ops.dest := by
  rw [State.readZmm_commit_same, State.readZmm_commit_same, h.cfg, destValue_congr h.dest]

end

end State.AgreeFor

/-! ## The same end -/

/-- The two outcomes are the same to an observer of the destination `d`, the flags, `rip`, the exception and the number
of consumed choices (R133). -/
def SameEnd (d : BitVec 5) : (o o' : Host.Outcome State Fault Refusal) → Prop
  | .next t, .next t' => t'.readZmm d = t.readZmm d ∧ t'.rip = t.rip ∧
      t'.mxcsr.extractLsb' 0 6 = t.mxcsr.extractLsb' 0 6 ∧ t'.draws = t.draws
  | .fault φ, .fault φ' => φ'.exception = φ.exception ∧
      φ'.final.mxcsr.extractLsb' 0 6 = φ.final.mxcsr.extractLsb' 0 6
  | .refused r, .refused r' => r' = r
  | _, _ => False

section
variable {d : BitVec 5} {o o' : Host.Outcome State Fault Refusal}

theorem SameEnd.next {t : State} (h : SameEnd d (.next t) o') :
    ∃ t', o' = .next t' ∧ SameEnd d (.next t) (.next t') := by
  cases o' with
  | next t' => exact ⟨t', rfl, h⟩
  | fault φ' => cases h
  | refused r' => cases h

theorem SameEnd.fault {φ : Fault} (h : SameEnd d (.fault φ) o') :
    ∃ φ', o' = .fault φ' ∧ SameEnd d (.fault φ) (.fault φ') := by
  cases o' with
  | next t' => cases h
  | fault φ' => exact ⟨φ', rfl, h⟩
  | refused r' => cases h

theorem SameEnd.ite {c : Prop} [Decidable c] {p p' : Host.Outcome State Fault Refusal} (h : SameEnd d o o')
    (h' : SameEnd d p p') : SameEnd d (if c then o else p) (if c then o' else p') := by
  split_ifs
  · exact h
  · exact h'

theorem SameEnd.raise {s u : State} (h : u.mxcsr.extractLsb' 0 6 = s.mxcsr.extractLsb' 0 6) (e : Exception) :
    SameEnd d (raise e s) (raise e u) := by
  simp [SameEnd, h]

end

section
variable {ops : Operands} {s u : State} (h : State.AgreeFor ops s u)
include h

theorem SameEnd.finish (out : FmsOutcome) : SameEnd ops.dest (finish ops out s) (finish ops out u) := by
  cases out with
  | trap f =>
    have hxm : u.osxmmexcpt = s.osxmmexcpt := by rw [State.osxmmexcpt, State.osxmmexcpt, h.sys]
    unfold Machine.finish
    rw [hxm]
    exact .raise (h.flags_orFlags f) _
  | result r f => exact ⟨h.readZmm_commit r f _, h.nextRip _, h.flags_orFlags f, h.draws⟩

/-- Each step of the execution reads the same in both states. -/
theorem SameEnd.execFms (hdaz : s.cfg.fp.honoursDazFtz = false) (neg : Bool) (order : OperandOrder) :
    SameEnd ops.dest (execFms neg order ops s) (execFms neg order ops u) := by
  have husable : u.fp16Usable = s.fp16Usable := by rw [State.fp16Usable, State.fp16Usable, h.sys]
  have hts : u.cr0TS = s.cr0TS := by rw [State.cr0TS, State.cr0TS, h.sys]
  unfold Machine.execFms
  rw [h.lengthUd, husable, hts, h.mask, h.readSrc3, h.maskedOffSrc3, h.readHalf_dest, h.src2]
  refine .ite (.raise h.flags _) (.ite (.raise h.flags _) (.ite ?unmasked ?masked))
  case unmasked =>
    cases s.readSrc3 ops with
    | error e => exact .raise h.flags e
    | ok b =>
      simp only [h.arithmetic hdaz]
      exact .finish h _
  case masked =>
    cases s.maskedOffSrc3 ops with
    | error e => exact .raise h.flags e
    | ok n => exact ⟨h.readZmm_commit _ .empty ops.length, h.nextRip _, h.flags_orFlags _, rfl⟩

end

/-- Settles O33: the executions in the two states have the same end. -/
theorem resultDependsOnlyOn : Obligations.ResultDependsOnlyOn := by
  intro i s u hdaz h
  have hend : SameEnd i.ops.dest (exec i s) (exec i u) := by
    rw [exec_eq_execFms, exec_eq_execFms]
    exact .execFms h hdaz _ _
  constructor
  · intro t ht
    rw [ht] at hend
    exact hend.next
  · intro φ hφ
    rw [hφ] at hend
    exact hend.fault

end Sys2Proof.Machine
end

section
/-! The steps of FMS16 before rounding: the datum and its classes (R150, R151), which step decides (R155), and the
outcomes of R157 to R161. -/

namespace Sys2Proof.Machine

/-! ## The classes of a datum (R150, R151) -/

theorem isNaN_eq_false_of_isFinite {h : Half} (hf : isFinite h = true) : isNaN h = false := by
  simp_all [isFinite, isNaN]

theorem isInf_eq_false_of_isFinite {h : Half} (hf : isFinite h = true) : isInf h = false := by
  simp_all [isFinite, isInf]

theorem isSNaN_eq_false_of_isNaN_eq_false {h : Half} (hn : isNaN h = false) : isSNaN h = false := by
  simp [isSNaN, hn]

theorem isNaN_eq_false_of_isInf {h : Half} (hi : isInf h = true) : isNaN h = false := by
  simp_all [isInf, isNaN]

theorem expOf_eq_zero_of_isZero {h : Half} (hz : isZero h = true) : expOf h = 0 := by
  have hmag : h.extractLsb' 0 15 = 0 := by simpa [isZero] using hz
  have hexp : h.extractLsb' 10 5 = (h.extractLsb' 0 15).extractLsb' 10 5 := by ext; simp
  rw [expOf, hexp, hmag]
  rfl

theorem isNaN_eq_false_of_isZero {h : Half} (hz : isZero h = true) : isNaN h = false := by
  simp [isNaN, expOf_eq_zero_of_isZero hz]

theorem zeroOf_eq (s : Bool) : zeroOf s = if s then 0x8000 else 0x0000 := by cases s <;> rfl

theorem infinity_eq (s : Bool) : infinity s = if s then 0xFC00 else 0x7C00 := by cases s <;> rfl

/-! ## Quieting a NaN (R150) -/

section
variable (h : Half)

theorem expOf_quiet : expOf (quiet h) = expOf h := by
  have hexp : (quiet h).extractLsb' 10 5 = h.extractLsb' 10 5 := by
    rw [quiet, BitVec.extractLsb'_or]
    exact BitVec.or_zero
  rw [expOf, hexp, expOf]

theorem getLsbD_quiet_nine : (quiet h).getLsbD 9 = true := by simp [quiet]

theorem getLsbD_quiet_sign : (quiet h).getLsbD 15 = h.getLsbD 15 := by simp [quiet]

theorem extractLsb'_quiet_low : (quiet h).extractLsb' 0 9 = h.extractLsb' 0 9 := by
  rw [quiet, BitVec.extractLsb'_or]
  exact BitVec.or_zero

theorem fracOf_quiet_ne_zero : fracOf (quiet h) ≠ 0 := by
  intro hzero
  have hfrac : (quiet h).extractLsb' 0 10 = 0 := BitVec.eq_of_toNat_eq hzero
  have hnine : ((quiet h).extractLsb' 0 10).getLsbD 9 = true := by simp [getLsbD_quiet_nine]
  simp [hfrac] at hnine

theorem isSNaN_quiet : isSNaN (quiet h) = false := by simp [isSNaN, getLsbD_quiet_nine]

end

theorem isQNaN_quiet {h : Half} (hn : isNaN h = true) : isQNaN (quiet h) = true := by
  have hexp : expOf h = 31 := by simp_all [isNaN]
  simp [isQNaN, isNaN, expOf_quiet, hexp, fracOf_quiet_ne_zero, getLsbD_quiet_nine]

theorem quiet_of_isQNaN {h : Half} (hq : isQNaN h = true) : quiet h = h := by
  have hnine : h.getLsbD 9 = true := by simp_all [isQNaN]
  ext i hi
  by_cases h9 : i = 9
  · subst h9
    simpa [quiet] using hnine
  · have hbit : (0x0200 : Half).getLsbD i = false := by
      revert hi h9
      revert i
      decide
    simp_all [quiet, ← BitVec.getLsbD_eq_getElem]

/-! ## Which step decides (R155) -/

theorem fms16_of_sae {e : FmsEnv} (h : e.sae = true) (neg : Bool) (x y z : Half) :
    fms16 e neg x y z = (fmsSteps e FpMasks.all neg x y z).withoutFlags := by
  rw [fms16, if_pos h]

theorem fms16_of_not_sae {e : FmsEnv} (h : e.sae = false) (neg : Bool) (x y z : Half) :
    fms16 e neg x y z = fmsSteps e e.masks neg x y z := by
  simp [fms16, h]

section
variable {e : FmsEnv} {neg : Bool} {x y z : Half}

/-- R33: where denormals are not replaced, step 0 does nothing. -/
theorem fmsSteps_of_not_honours (hp : e.params.honoursDazFtz = false) (m : FpMasks) (neg : Bool) (x y z : Half) :
    fmsSteps e m neg x y z =
      if isNaN x || isNaN y || isNaN z then nanResult e.params m x y z
      else if invalidOp neg x y z then
        if !m.im then .trap { ie := true } else .result indefinite { ie := true }
      else finiteSteps e.rm m false neg x y z := by
  simp [fmsSteps, dazOperand, hp]

theorem invalidOp_iff : invalidOp neg x y z = true ↔
    (isZero x = true ∧ isInf y = true) ∨ (isInf x = true ∧ isZero y = true) ∨
      ((isInf x = true ∨ isInf y = true) ∧ isInf z = true ∧
        (x.getLsbD 15 ^^ y.getLsbD 15 ^^ neg) ≠ !z.getLsbD 15) := by
  simp only [invalidOp, zeroTimesInf, productSign, addendSign, signOf, Bool.or_eq_true, Bool.and_eq_true,
    bne_iff_ne, or_assoc, and_assoc]

theorem fmsSteps_of_nan (hp : e.params = FpParams.thisHardware)
    (h : isNaN x = true ∨ isNaN y = true ∨ isNaN z = true) (m : FpMasks) :
    fmsSteps e m neg x y z = nanResult FpParams.thisHardware m x y z := by
  rw [fmsSteps_of_not_honours (by rw [hp]; rfl), if_pos (by simpa [or_assoc] using h), hp]

section
variable (hp : e.params.honoursDazFtz = false) (hx : isNaN x = false) (hy : isNaN y = false) (hz : isNaN z = false)
include hp hx hy hz

theorem fmsSteps_of_invalidOp (h : invalidOp neg x y z = true) (m : FpMasks) :
    fmsSteps e m neg x y z = if m.im then .result indefinite { ie := true } else .trap { ie := true } := by
  rw [fmsSteps_of_not_honours hp, if_neg (by simp [hx, hy, hz]), if_pos h]
  cases m.im <;> rfl

theorem fmsSteps_of_valid (h : invalidOp neg x y z = false) (m : FpMasks) :
    fmsSteps e m neg x y z = finiteSteps e.rm m false neg x y z := by
  rw [fmsSteps_of_not_honours hp, if_neg (by simp [hx, hy, hz]), if_neg (by simp [h])]

end

/-! ## A NaN operand (R157) -/

/-- A signalling NaN is among the operands. -/
def anySNaN (x y z : Half) : Bool := isSNaN x || isSNaN y || isSNaN z

theorem nanResult_thisHardware (m : FpMasks) (x y z : Half) :
    nanResult FpParams.thisHardware m x y z =
      if anySNaN x y z && !m.im then .trap { ie := true }
      else .result (quiet (firstNaN .xyz x y z)) { ie := anySNaN x y z } := by
  simp [nanResult, FpParams.thisHardware, anySNaN]

theorem firstNaN_xyz_cases (h : isNaN x = true ∨ isNaN y = true ∨ isNaN z = true) :
    (isNaN x = true ∧ firstNaN .xyz x y z = x) ∨ (isNaN x = false ∧ isNaN y = true ∧ firstNaN .xyz x y z = y) ∨
      (isNaN x = false ∧ isNaN y = false ∧ isNaN z = true ∧ firstNaN .xyz x y z = z) := by
  cases hx : isNaN x
  · cases hy : isNaN y <;> simp_all [firstNaN]
  · simp [firstNaN, hx]

theorem isNaN_firstNaN (h : isNaN x = true ∨ isNaN y = true ∨ isNaN z = true) :
    isNaN (firstNaN .xyz x y z) = true := by
  obtain ⟨hn, heq⟩ | ⟨-, hn, heq⟩ | ⟨-, -, hn, heq⟩ := firstNaN_xyz_cases h <;> rw [heq, hn]

/-- Under `sae` a NaN operand gives the first NaN, quieted, and no flag (R154). -/
theorem fms16_nan_of_sae (hp : e.params = FpParams.thisHardware)
    (h : isNaN x = true ∨ isNaN y = true ∨ isNaN z = true) (hsae : e.sae = true) :
    fms16 e neg x y z = .result (quiet (firstNaN .xyz x y z)) {} := by
  rw [fms16_of_sae hsae, fmsSteps_of_nan hp h, nanResult_thisHardware, if_neg (by simp [FpMasks.all])]
  rfl

theorem fms16_nan_of_quiet (hp : e.params = FpParams.thisHardware)
    (h : isNaN x = true ∨ isNaN y = true ∨ isNaN z = true) (hs : anySNaN x y z = false) :
    fms16 e neg x y z = .result (quiet (firstNaN .xyz x y z)) {} := by
  cases hsae : e.sae
  · rw [fms16_of_not_sae hsae, fmsSteps_of_nan hp h, nanResult_thisHardware, hs]
    rfl
  · exact fms16_nan_of_sae hp h hsae

theorem fms16_nan_of_signalling (hp : e.params = FpParams.thisHardware)
    (h : isNaN x = true ∨ isNaN y = true ∨ isNaN z = true) (hsae : e.sae = false) (hs : anySNaN x y z = true) :
    fms16 e neg x y z =
      if e.masks.im then .result (quiet (firstNaN .xyz x y z)) { ie := true } else .trap { ie := true } := by
  rw [fms16_of_not_sae hsae, fmsSteps_of_nan hp h, nanResult_thisHardware, hs]
  cases e.masks.im <;> rfl

end

/-- Settles O48: the NaN of R157 is `firstNaN` in the order `x`, `y`, `z`. -/
theorem nanOperand : Obligations.NanOperand := by
  intro e neg x y z hp h
  refine ⟨firstNaN .xyz x y z, ?_, getLsbD_quiet_sign _, extractLsb'_quiet_low _, isQNaN_quiet (isNaN_firstNaN h),
    fms16_nan_of_sae hp h, fun hsae => ⟨fun hs => ?_, fun hx hy hz => ?_⟩⟩
  · obtain hx | hy | ⟨hx, hy, -, heq⟩ := firstNaN_xyz_cases h
    · exact .inl hx
    · exact .inr (.inl hy)
    · exact .inr (.inr ⟨hx, hy, heq⟩)
  · exact fms16_nan_of_signalling hp h hsae (by simpa [anySNaN, or_assoc] using hs)
  · exact fms16_nan_of_quiet hp h (by simp [anySNaN, hx, hy, hz])

/-! ## An invalid operation (R158) -/

/-- 0 × ∞ has no NaN among its factors, so a NaN subtrahend is the first NaN. -/
theorem isNaN_factors_of_zeroTimesInf {x y : Half}
    (h : (isZero x = true ∧ isInf y = true) ∨ (isInf x = true ∧ isZero y = true)) :
    isNaN x = false ∧ isNaN y = false := by
  obtain ⟨hx, hy⟩ | ⟨hx, hy⟩ := h
  · exact ⟨isNaN_eq_false_of_isZero hx, isNaN_eq_false_of_isInf hy⟩
  · exact ⟨isNaN_eq_false_of_isInf hx, isNaN_eq_false_of_isZero hy⟩

/-- Settles O49: the first part is step 2; the second is step 1, where the subtrahend is the only NaN and is quiet. -/
theorem invalidOperation : Obligations.InvalidOperation := by
  constructor
  · intro e neg x y z hp hx hy hz h
    have hsteps := fmsSteps_of_invalidOp (e := e) (by rw [hp]; rfl) hx hy hz (invalidOp_iff.2 h)
    constructor
    · intro hsae
      rw [fms16_of_sae hsae, hsteps]
      rfl
    · intro hsae
      rw [fms16_of_not_sae hsae, hsteps]
      rfl
  · intro e neg x y z hp h hq
    obtain ⟨hx, hy⟩ := isNaN_factors_of_zeroTimesInf h
    have hz : isNaN z = true := by simp_all [isQNaN]
    have hquiet : anySNaN x y z = false := by
      have hnine : z.getLsbD 9 = true := by simp_all [isQNaN]
      simp [anySNaN, isSNaN, hx, hy, hnine]
    have hfirst : firstNaN .xyz x y z = z := by simp [firstNaN, hx, hy]
    rw [fms16_nan_of_quiet hp (.inr (.inr hz)) hquiet, hfirst, quiet_of_isQNaN hq]

/-! ## A denormal operand (R159), an infinite operand (R160), an exact zero (R161) -/

/-- A denormal is among the operands (R159). -/
def anyDen (x y z : Half) : Bool := isDen x || isDen y || isDen z

section
variable {rm : RoundMode} {m : FpMasks} {flush neg : Bool} {x y z : Half}

theorem finiteSteps_of_unmasked_den (hden : anyDen x y z = true) (hm : m.dm = false) :
    finiteSteps rm m flush neg x y z = .trap { de := true } := by
  have hden' : (isDen x || isDen y || isDen z) = true := hden
  simp only [finiteSteps, hden', hm, Bool.not_false, Bool.and_self, if_true]

/-- Steps 4 to 6: what runs where no denormal operand traps. -/
theorem finiteSteps_of_masked_den (hm : (anyDen x y z && !m.dm) = false) :
    finiteSteps rm m flush neg x y z =
      if isInf x || isInf y then .result (infinity (productSign neg x y)) { de := anyDen x y z }
      else if isInf z then .result (infinity (addendSign z)) { de := anyDen x y z }
      else if exactValue neg x y z = 0 then
        .result (zeroOf (exactZeroSign rm neg x y z)) { de := anyDen x y z }
      else roundFP rm m flush (exactValue neg x y z < 0) (exactValue neg x y z).natAbs { de := anyDen x y z } := by
  have hm' : ((isDen x || isDen y || isDen z) && !m.dm) = false := hm
  simp only [finiteSteps, hm', Bool.false_eq_true, if_false]
  rfl

end

section
variable {e : FmsEnv} {neg : Bool} {x y z : Half}

theorem anyDen_masked_iff : (anyDen x y z && !e.masks.dm) = false ↔
    (e.masks.dm = true ∨ (isDen x = false ∧ isDen y = false ∧ isDen z = false)) := by
  simp only [anyDen, Bool.and_eq_false_iff, Bool.not_eq_false_eq_eq_true, Bool.or_eq_false_iff, and_assoc, or_comm]

/-- A valid operation with an unmasked denormal operand traps with DE alone (R159). -/
theorem fms16_of_unmasked_den (hsteps : ∀ m, fmsSteps e m neg x y z = finiteSteps e.rm m false neg x y z)
    (hsae : e.sae = false) (hdm : e.masks.dm = false) (hden : isDen x = true ∨ isDen y = true ∨ isDen z = true) :
    fms16 e neg x y z = .trap { de := true } := by
  rw [fms16_of_not_sae hsae, hsteps, finiteSteps_of_unmasked_den (by simpa [anyDen, or_assoc] using hden) hdm]

/-- A valid operation whose result no mask but DM decides answers it with DE alone, and under `sae` with no flag. -/
theorem fms16_of_masked_den {r : Half} (hsteps : ∀ m, fmsSteps e m neg x y z = finiteSteps e.rm m false neg x y z)
    (hr : ∀ m : FpMasks, (anyDen x y z && !m.dm) = false →
      finiteSteps e.rm m false neg x y z = .result r { de := anyDen x y z })
    (h : e.sae = true ∨ e.masks.dm = true ∨ (isDen x = false ∧ isDen y = false ∧ isDen z = false)) :
    fms16 e neg x y z = .result r { de := !e.sae && (isDen x || isDen y || isDen z) } := by
  cases hsae : e.sae
  · have hm := anyDen_masked_iff.2 (h.resolve_left (by simp [hsae]))
    rw [fms16_of_not_sae hsae, hsteps, hr _ hm]
    rfl
  · rw [fms16_of_sae hsae, hsteps, hr _ (by simp [FpMasks.all])]
    rfl

end

/-- Settles O50: the infinities are answered in step 4, after the only trap, that of a denormal operand. -/
theorem infiniteOperand : Obligations.InfiniteOperand := by
  intro e neg x y z hp hx hy hz hzero hinf hsome
  have hvalid : invalidOp neg x y z = false :=
    Bool.eq_false_iff.2 fun h => (or_assoc.2 (invalidOp_iff.1 h)).elim hzero hinf
  have hsteps := fmsSteps_of_valid (e := e) (by rw [hp]; rfl) hx hy hz hvalid
  refine ⟨fms16_of_unmasked_den hsteps, fun hmasked => ⟨fun hfactor => ?_, fun hx hy => ?_⟩⟩
  · refine fms16_of_masked_den hsteps (fun m hm => ?_) hmasked
    rw [finiteSteps_of_masked_den hm, if_pos (by simpa using hfactor), infinity_eq]
    rfl
  · refine fms16_of_masked_den hsteps (fun m hm => ?_) hmasked
    have hz : isInf z = true := by simpa [hx, hy] using hsome
    rw [finiteSteps_of_masked_den hm, if_neg (by simp [hx, hy]), if_pos hz, infinity_eq, addendSign, signOf]
    cases z.getLsbD 15 <;> rfl

end Sys2Proof.Machine
end

section
/-! The exact value in units of 2^−48 (R152, R155) and the exact zero (R161); which outcomes trap (R166), which flags
come together (R169), and the symmetries of the product (R173). -/

namespace Sys2Proof.Machine

/-! ## Units of 2^−48 (R152)

The statements compare rational numbers, the arithmetic integers. Every rational they compare is `units` of an
integer. -/

/-- `n` × 2^−48. -/
def units (n : ℤ) : ℚ := n / 2 ^ 48

section
variable {a b : ℤ}

@[simp] theorem units_le_units : units a ≤ units b ↔ a ≤ b := by
  rw [units, units, div_le_div_iff_of_pos_right (by positivity), Int.cast_le]

@[simp] theorem units_lt_units : units a < units b ↔ a < b := by
  rw [units, units, div_lt_div_iff_of_pos_right (by positivity), Int.cast_lt]

@[simp] theorem units_inj : units a = units b ↔ a = b := by
  simp only [le_antisymm_iff, units_le_units]

theorem units_eq_zero : units a = 0 ↔ a = 0 := by simp [units]

theorem units_sub : units a - units b = units (a - b) := by simp only [units]; push_cast; ring

theorem neg_units : -units a = units (-a) := by simp only [units]; push_cast; ring

theorem abs_units : |units a| = units |a| := by
  rw [units, units, abs_div, Int.cast_abs, abs_of_pos (by positivity : (0 : ℚ) < 2 ^ 48)]

end

theorem val_eq_units (h : Half) : val h = units (intVal h * 2 ^ 24) := by
  simp only [val, units]; push_cast; ring

theorem exactReal_eq_units (neg : Bool) (x y z : Half) : exactReal neg x y z = units (exactValue neg x y z) := by
  cases neg
  all_goals
    simp only [exactReal, exactValue, val, units, Bool.false_eq_true, if_false, if_true]
    push_cast
    ring

theorem exactReal_eq_zero_iff {neg : Bool} {x y z : Half} :
    exactReal neg x y z = 0 ↔ exactValue neg x y z = 0 := by
  rw [exactReal_eq_units, units_eq_zero]

/-! ## Finite operands (R159, R161) -/

section
variable {neg : Bool} {x y z : Half} (hx : isFinite x = true) (hy : isFinite y = true) (hz : isFinite z = true)
include hx hy

theorem invalidOp_of_isFinite : invalidOp neg x y z = false := by
  simp [invalidOp, zeroTimesInf, isInf_eq_false_of_isFinite hx, isInf_eq_false_of_isFinite hy]

include hz

/-- Finite operands go through steps 3 to 6. -/
theorem fmsSteps_of_isFinite {e : FmsEnv} (hp : e.params.honoursDazFtz = false) (m : FpMasks) :
    fmsSteps e m neg x y z = finiteSteps e.rm m false neg x y z :=
  fmsSteps_of_valid hp (isNaN_eq_false_of_isFinite hx) (isNaN_eq_false_of_isFinite hy) (isNaN_eq_false_of_isFinite hz)
    (invalidOp_of_isFinite hx hy) m

/-- Step 5 or step 6 answers, where no denormal operand traps. -/
theorem finiteSteps_of_isFinite {rm : RoundMode} {m : FpMasks} {flush : Bool}
    (hm : (anyDen x y z && !m.dm) = false) :
    finiteSteps rm m flush neg x y z =
      if exactValue neg x y z = 0 then .result (zeroOf (exactZeroSign rm neg x y z)) { de := anyDen x y z }
      else roundFP rm m flush (exactValue neg x y z < 0) (exactValue neg x y z).natAbs { de := anyDen x y z } := by
  rw [finiteSteps_of_masked_den hm, if_neg (by simp [isInf_eq_false_of_isFinite, hx, hy]),
    if_neg (by simp [isInf_eq_false_of_isFinite, hz])]

end

section
variable {neg : Bool} {x y z : Half} {rm : RoundMode}

theorem exactZeroSign_of_same_sign (h : ((isZero x = true ∨ isZero y = true) ∧ isZero z = true) ∧
    (x.getLsbD 15 ^^ y.getLsbD 15 ^^ neg) = !z.getLsbD 15) : exactZeroSign rm neg x y z = !z.getLsbD 15 := by
  obtain ⟨⟨hxy, hz⟩, hsign⟩ := h
  have hsign' : productSign neg x y = !z.getLsbD 15 := hsign
  rw [exactZeroSign, if_pos (by simp [hxy, hz, hsign', addendSign, signOf]), hsign']

theorem exactZeroSign_of_cancel (h : ¬(((isZero x = true ∨ isZero y = true) ∧ isZero z = true) ∧
    (x.getLsbD 15 ^^ y.getLsbD 15 ^^ neg) = !z.getLsbD 15)) : exactZeroSign rm neg x y z = (rm == .rd) := by
  refine if_neg fun hc => h ?_
  simpa [productSign, addendSign, signOf] using hc

end

/-- Settles O51: the exact zero is answered in step 5, with the sign of `exactZeroSign`. -/
theorem exactZero : Obligations.ExactZero := by
  intro e neg x y z hp hx hy hz hv
  have hsteps := fmsSteps_of_isFinite (neg := neg) hx hy hz (e := e) (by rw [hp]; rfl)
  have hzero (m : FpMasks) (hm : (anyDen x y z && !m.dm) = false) : finiteSteps e.rm m false neg x y z =
      .result (zeroOf (exactZeroSign e.rm neg x y z)) { de := anyDen x y z } := by
    rw [finiteSteps_of_isFinite hx hy hz hm, if_pos (exactReal_eq_zero_iff.1 hv)]
  refine ⟨fms16_of_unmasked_den hsteps, fun hmasked => ⟨fun h => ?_, fun h => ?_⟩⟩
  · rw [← zeroOf_eq, ← exactZeroSign_of_same_sign h]
    exact fms16_of_masked_den hsteps hzero hmasked
  · have hsign : (if e.rm = .rd then 0x8000 else 0x0000 : Half) = zeroOf (exactZeroSign e.rm neg x y z) := by
      simp [exactZeroSign_of_cancel h, zeroOf_eq]
    rw [hsign]
    exact fms16_of_masked_den hsteps hzero hmasked

/-! ## A trap is an unmasked flag (R166) -/

/-- A flag of the set has its mask bit 0. -/
def FpFlags.Unmasked (f : FpFlags) (m : FpMasks) : Prop :=
  (f.ie = true ∧ m.im = false) ∨ (f.de = true ∧ m.dm = false) ∨ (f.oe = true ∧ m.om = false) ∨
    (f.ue = true ∧ m.um = false) ∨ (f.pe = true ∧ m.pm = false)

/-- The outcome is a trap where one of its flags is unmasked, and else a result. -/
def FmsOutcome.FollowsMasks (m : FpMasks) : FmsOutcome → Prop
  | .result _ f => ¬ f.Unmasked m
  | .trap f => f.Unmasked m

theorem FmsOutcome.FollowsMasks.trap_iff {m : FpMasks} {o : FmsOutcome} (h : o.FollowsMasks m) :
    (∃ g, o = .trap g) ↔ o.flags.Unmasked m := by
  cases o with
  | result r f => simpa [FmsOutcome.flags, FmsOutcome.FollowsMasks] using h
  | trap f => simpa [FmsOutcome.flags, FmsOutcome.FollowsMasks] using h

section
variable {m : FpMasks} {f : FpFlags} (hf : ¬ f.Unmasked m)

theorem FmsOutcome.FollowsMasks.ite {c : Prop} [Decidable c] {o o' : FmsOutcome} (h : c → o.FollowsMasks m)
    (h' : ¬c → o'.FollowsMasks m) : (if c then o else o').FollowsMasks m := by
  split_ifs with hc
  · exact h hc
  · exact h' hc

theorem signalled_ie_followsMasks (ie : Bool) (r : Half) :
    (if ie && !m.im then FmsOutcome.trap { ie := true } else .result r { ie := ie }).FollowsMasks m :=
  .ite (fun h => by simp_all [FmsOutcome.FollowsMasks, FpFlags.Unmasked])
    (fun h => by simp_all [FmsOutcome.FollowsMasks, FpFlags.Unmasked])

include hf

theorem overflow_followsMasks (rm : RoundMode) (s inexact : Bool) : (overflow rm m s inexact f).FollowsMasks m :=
  .ite (fun h => by simp_all [FmsOutcome.FollowsMasks, FpFlags.Unmasked]) fun hom =>
    .ite (fun h => by simp_all [FmsOutcome.FollowsMasks, FpFlags.Unmasked])
      (fun h => by simp_all [FmsOutcome.FollowsMasks, FpFlags.Unmasked])

theorem tiny_followsMasks (rm : RoundMode) (flush s : Bool) (mag : Nat) :
    (tiny rm m flush s mag f).FollowsMasks m := by
  refine .ite (fun h => ?um) fun hum => .ite (fun _ => .ite (fun h => ?flushPm) (fun h => ?flushed))
    fun _ => .ite (fun _ => .ite (fun h => ?pm) (fun h => ?inexact)) (fun _ => hf)
  all_goals simp_all [FmsOutcome.FollowsMasks, FpFlags.Unmasked]

theorem normal_followsMasks (s inexact : Bool) (e n : Nat) : (normal m s inexact e n f).FollowsMasks m :=
  .ite (fun _ => .ite (fun h => by simp_all [FmsOutcome.FollowsMasks, FpFlags.Unmasked])
    (fun h => by simp_all [FmsOutcome.FollowsMasks, FpFlags.Unmasked])) (fun _ => hf)

theorem roundFP_followsMasks (rm : RoundMode) (flush s : Bool) (mag : Nat) :
    (roundFP rm m flush s mag f).FollowsMasks m :=
  .ite (fun _ => overflow_followsMasks hf ..) fun _ =>
    .ite (fun _ => tiny_followsMasks hf ..) (fun _ => normal_followsMasks hf ..)

end

theorem finiteSteps_followsMasks (rm : RoundMode) (m : FpMasks) (flush neg : Bool) (x y z : Half) :
    (finiteSteps rm m flush neg x y z).FollowsMasks m := by
  cases hm : anyDen x y z && !m.dm
  · have hf : ¬ FpFlags.Unmasked { de := anyDen x y z } m := by simp_all [FpFlags.Unmasked]
    rw [finiteSteps_of_masked_den hm]
    exact .ite (fun _ => hf) fun _ => .ite (fun _ => hf) fun _ => .ite (fun _ => hf)
      fun _ => roundFP_followsMasks hf ..
  · obtain ⟨hden, hdm⟩ : anyDen x y z = true ∧ m.dm = false := by simpa using hm
    rw [finiteSteps_of_unmasked_den hden hdm]
    simp [FmsOutcome.FollowsMasks, FpFlags.Unmasked, hdm]

theorem fmsSteps_followsMasks (e : FmsEnv) (m : FpMasks) (neg : Bool) (x y z : Half) :
    (fmsSteps e m neg x y z).FollowsMasks m :=
  .ite (fun _ => signalled_ie_followsMasks ..) fun _ =>
    .ite (fun _ => signalled_ie_followsMasks true indefinite) (fun _ => finiteSteps_followsMasks ..)

/-- Settles O55: without `sae` every step follows the masks, and with `sae` there is a result. -/
theorem trapIffUnmasked : Obligations.TrapIffUnmasked := by
  intro e neg x y z f
  cases hsae : e.sae with
  | false =>
    have hmasks : (fms16 e neg x y z).FollowsMasks e.masks := by
      rw [fms16_of_not_sae hsae]
      exact fmsSteps_followsMasks ..
    rw [hmasks.trap_iff]
    exact (and_iff_right rfl).symm
  | true =>
    obtain ⟨r, g, hr⟩ := FmsOutcome.delivers_iff.1 (fms16_delivers (.inr hsae) neg x y z)
    simp [hr]

/-! ## Flags that are never set together (R169) -/

/-- The pairs of R169 do not occur in the set. -/
def FpFlags.Compatible (f : FpFlags) : Prop :=
  ¬(f.ie = true ∧ f.de = true) ∧ (f.ie = true → f.oe = false ∧ f.ue = false ∧ f.pe = false) ∧
    ¬(f.oe = true ∧ f.ue = true)

/-- The steps from 3 on signal no invalid operation, and at most one of overflow and underflow. -/
def FpFlags.OfValid (f : FpFlags) : Prop := f.ie = false ∧ ¬(f.oe = true ∧ f.ue = true)

theorem FpFlags.OfValid.compatible {f : FpFlags} (h : f.OfValid) : f.Compatible := by
  obtain ⟨hie, hou⟩ := h
  exact ⟨by simp [hie], by simp [hie], hou⟩

theorem FpFlags.compatible_ie (ie : Bool) : FpFlags.Compatible { ie := ie } := by
  simp [FpFlags.Compatible]

section
variable {P : FpFlags → Prop}

theorem FmsOutcome.flags_ite {c : Prop} [Decidable c] {o o' : FmsOutcome} (h : P o.flags) (h' : P o'.flags) :
    P (if c then o else o').flags := by
  split_ifs
  · exact h
  · exact h'

end

/-! What each of R163 to R165 adds to the flags `f` of the steps before. -/

theorem overflow_flags (rm : RoundMode) (m : FpMasks) (s inexact : Bool) (f : FpFlags) :
    ∃ pe, (overflow rm m s inexact f).flags = { f with oe := true, pe := pe } := by
  unfold overflow
  split_ifs
  · exact ⟨inexact, rfl⟩
  · exact ⟨true, rfl⟩
  · exact ⟨true, rfl⟩

theorem tiny_flags (rm : RoundMode) (m : FpMasks) (flush s : Bool) (mag : ℕ) (f : FpFlags) :
    ∃ ue pe, (tiny rm m flush s mag f).flags = { f with ue := ue, pe := pe } ∧
      (flush = false → ue = (f.ue || !m.um || (roundInt mag (2 ^ 24) s rm).2)) := by
  unfold tiny
  generalize roundInt mag (2 ^ 24) s rm = p
  obtain ⟨nd, inexact⟩ := p
  simp only
  split_ifs with hum hflush hpm hinexact hpm
  · exact ⟨true, inexact, rfl, fun _ => by simp [hum]⟩
  · exact ⟨true, true, rfl, fun h => absurd hflush (by simp [h])⟩
  · exact ⟨true, true, rfl, fun h => absurd hflush (by simp [h])⟩
  · exact ⟨true, true, rfl, fun _ => by simp [hinexact]⟩
  · exact ⟨true, true, rfl, fun _ => by simp [hinexact]⟩
  · exact ⟨f.ue, f.pe, rfl, fun _ => by simp_all⟩

theorem normal_flags (m : FpMasks) (s inexact : Bool) (e n : ℕ) (f : FpFlags) :
    ∃ pe, (normal m s inexact e n f).flags = { f with pe := pe } := by
  unfold normal
  split_ifs
  · exact ⟨true, rfl⟩
  · exact ⟨true, rfl⟩
  · exact ⟨f.pe, rfl⟩

/-- The significand `n` and whether it is inexact (R162). -/
def significand (rm : RoundMode) (s : Bool) (mag : ℕ) : ℕ × Bool := roundInt (mag * 2 ^ 10) (2 ^ mag.log2) s rm

theorem roundFP_flags_ofValid (rm : RoundMode) (m : FpMasks) (flush s : Bool) (mag : Nat) (de : Bool) :
    (roundFP rm m flush s mag { de := de }).flags.OfValid := by
  refine FmsOutcome.flags_ite ?overflow (FmsOutcome.flags_ite ?tiny ?normal)
  case overflow =>
    obtain ⟨pe, hflags⟩ := overflow_flags rm m s (significand rm s mag).2 { de := de }
    exact hflags ▸ ⟨rfl, by simp⟩
  case tiny =>
    obtain ⟨ue, pe, hflags, -⟩ := tiny_flags rm m flush s mag { de := de }
    exact hflags ▸ ⟨rfl, by simp⟩
  case normal =>
    obtain ⟨pe, hflags⟩ := normal_flags m s (significand rm s mag).2 (mag.log2 - 33) (significand rm s mag).1
      { de := de }
    exact hflags ▸ ⟨rfl, by simp⟩

theorem finiteSteps_flags_ofValid (rm : RoundMode) (m : FpMasks) (flush neg : Bool) (x y z : Half) :
    (finiteSteps rm m flush neg x y z).flags.OfValid := by
  have hde (de : Bool) : FpFlags.OfValid { de := de } := ⟨rfl, by simp⟩
  exact FmsOutcome.flags_ite (hde _) (FmsOutcome.flags_ite (hde _) (FmsOutcome.flags_ite (hde _)
    (FmsOutcome.flags_ite (hde _) (roundFP_flags_ofValid ..))))

theorem fmsSteps_flags_compatible (e : FmsEnv) (m : FpMasks) (neg : Bool) (x y z : Half) :
    (fmsSteps e m neg x y z).flags.Compatible :=
  FmsOutcome.flags_ite
    (FmsOutcome.flags_ite (FpFlags.compatible_ie _) (FpFlags.compatible_ie _))
    (FmsOutcome.flags_ite (FmsOutcome.flags_ite (FpFlags.compatible_ie _) (FpFlags.compatible_ie _))
      (finiteSteps_flags_ofValid ..).compatible)

/-- Settles O56: steps 1 and 2 signal IE alone, the later steps never signal it. -/
theorem flagsNeverTogether : Obligations.FlagsNeverTogether := by
  intro e neg x y z _ f
  have hf : f.Compatible := by
    cases hsae : e.sae with
    | true =>
      have hempty : f = FpFlags.empty := fms16_flags_of_sae hsae ..
      exact hempty ▸ FpFlags.compatible_ie false
    | false =>
      have hsteps : f = (fmsSteps e e.masks neg x y z).flags := congrArg FmsOutcome.flags (fms16_of_not_sae hsae ..)
      exact hsteps ▸ fmsSteps_flags_compatible ..
  exact hf

/-! ## The symmetries of the product (R173 (6), (7)) -/

/-- Two computations whose steps agree under every mask agree. -/
theorem fms16_congr_steps {e : FmsEnv} {neg neg' : Bool} {x y z x' y' z' : Half}
    (h : ∀ m, fmsSteps e m neg x y z = fmsSteps e m neg' x' y' z') : fms16 e neg x y z = fms16 e neg' x' y' z' := by
  rw [fms16, fms16, h, h]

theorem nanResult_comm {x y : Half} (h : ¬(isNaN x = true ∧ isNaN y = true)) (m : FpMasks) (z : Half) :
    nanResult FpParams.thisHardware m x y z = nanResult FpParams.thisHardware m y x z := by
  have hfirst : firstNaN .xyz x y z = firstNaN .xyz y x z := by
    cases hx : isNaN x
    · simp [firstNaN, hx]
    · simp_all [firstNaN]
  rw [nanResult_thisHardware, nanResult_thisHardware, hfirst, anySNaN, anySNaN, Bool.or_comm (isSNaN x)]

theorem fms16_comm_of_not_both_nan {e : FmsEnv} (hp : e.params = FpParams.thisHardware) {x y : Half}
    (h : ¬(isNaN x = true ∧ isNaN y = true)) (neg : Bool) (z : Half) : fms16 e neg x y z = fms16 e neg y x z := by
  refine fms16_congr_steps fun m => ?_
  rw [fmsSteps_of_not_honours (by rw [hp]; rfl), fmsSteps_of_not_honours (by rw [hp]; rfl), hp, nanResult_comm h,
    Bool.or_comm (isNaN x), invalidOp_comm, finiteSteps_comm]

/-- The datum with its sign bit flipped. -/
def flipSign (x : Half) : Half := x ^^^ 0x8000

section
variable (x : Half)

theorem extractLsb'_flipSign : (flipSign x).extractLsb' 0 15 = x.extractLsb' 0 15 := by
  rw [flipSign, BitVec.extractLsb'_xor]
  exact BitVec.xor_zero

@[simp] theorem expOf_flipSign : expOf (flipSign x) = expOf x := by
  rw [expOf, flipSign, BitVec.extractLsb'_xor]
  exact congrArg BitVec.toNat BitVec.xor_zero

@[simp] theorem fracOf_flipSign : fracOf (flipSign x) = fracOf x := by
  rw [fracOf, flipSign, BitVec.extractLsb'_xor]
  exact congrArg BitVec.toNat BitVec.xor_zero

@[simp] theorem signOf_flipSign : signOf (flipSign x) = !signOf x := by simp [signOf, flipSign]

@[simp] theorem isZero_flipSign : isZero (flipSign x) = isZero x := by rw [isZero, extractLsb'_flipSign, isZero]

@[simp] theorem isDen_flipSign : isDen (flipSign x) = isDen x := by simp [isDen]

@[simp] theorem isInf_flipSign : isInf (flipSign x) = isInf x := by simp [isInf]

@[simp] theorem isNaN_flipSign : isNaN (flipSign x) = isNaN x := by simp [isNaN]

@[simp] theorem intVal_flipSign : intVal (flipSign x) = -intVal x := by
  cases hs : signOf x <;> simp [intVal, magnitude, hs]

variable (y : Half)

/-- Negating the product is negating its first factor. -/
theorem productSign_flipSign : productSign false (flipSign x) y = productSign true x y := by
  simp [productSign]

theorem invalidOp_flipSign (z : Half) : invalidOp false (flipSign x) y z = invalidOp true x y z := by
  rw [invalidOp, invalidOp, productSign_flipSign]
  simp [zeroTimesInf]

theorem finiteSteps_flipSign (rm : RoundMode) (m : FpMasks) (flush : Bool) (z : Half) :
    finiteSteps rm m flush false (flipSign x) y z = finiteSteps rm m flush true x y z := by
  have hvalue : exactValue false (flipSign x) y z = exactValue true x y z := by simp [exactValue]
  have hzero : exactZeroSign rm false (flipSign x) y z = exactZeroSign rm true x y z := by
    simp only [exactZeroSign, productSign_flipSign, isZero_flipSign]
  simp only [finiteSteps, hvalue, hzero, productSign_flipSign, isDen_flipSign, isInf_flipSign]

end

/-- A factor that is no NaN plays no part in step 1. -/
theorem nanResult_flipSign {x : Half} (hx : isNaN x = false) (m : FpMasks) (y z : Half) :
    nanResult FpParams.thisHardware m (flipSign x) y z = nanResult FpParams.thisHardware m x y z := by
  have hs : anySNaN (flipSign x) y z = anySNaN x y z := by simp [anySNaN, isSNaN, hx]
  have hfirst : firstNaN .xyz (flipSign x) y z = firstNaN .xyz x y z := by simp [firstNaN, hx]
  rw [nanResult_thisHardware, nanResult_thisHardware, hs, hfirst]

/-- Settles O59: each step commutes in the factors, and sees the sign of the product only. -/
theorem productSymmetries : Obligations.ProductSymmetries := by
  intro e x y z hp
  refine ⟨fun neg h => fms16_comm_of_not_both_nan hp h neg z, fun hx => fms16_congr_steps fun m => ?_⟩
  change fmsSteps e m true x y z = fmsSteps e m false (flipSign x) y z
  rw [fmsSteps_of_not_honours (by rw [hp]; rfl), fmsSteps_of_not_honours (by rw [hp]; rfl), hp, nanResult_flipSign hx,
    isNaN_flipSign, invalidOp_flipSign, finiteSteps_flipSign]

end Sys2Proof.Machine
end

section
/-! Rounding in natural numbers: the data of a sign and a magnitude (R150), `roundInt` (R167) by the two multiples
around the number, and the powers of two that the rounding with unbounded exponent reaches (R162). -/

namespace Sys2Proof.Machine

/-! ## A datum by its three fields (R150) -/

theorem expOf_eq (h : Half) : expOf h = h.toNat / 1024 % 32 := by
  simp [expOf, BitVec.extractLsb'_toNat, Nat.shiftRight_eq_div_pow]

theorem fracOf_eq (h : Half) : fracOf h = h.toNat % 1024 := by
  simp [fracOf, BitVec.extractLsb'_toNat]

theorem signOf_eq (h : Half) : signOf h = decide (32768 ≤ h.toNat) := by
  have hmsb := BitVec.msb_eq_decide h
  rwa [BitVec.msb_eq_getLsbD_last] at hmsb

theorem fracOf_lt (h : Half) : fracOf h < 1024 := by
  rw [fracOf_eq]
  exact Nat.mod_lt _ (by decide)

theorem eq_of_fields {h r : Half} (hs : signOf r = signOf h) (he : expOf r = expOf h) (hf : fracOf r = fracOf h) :
    r = h := by
  rw [signOf_eq, signOf_eq, decide_eq_decide] at hs
  rw [expOf_eq, expOf_eq] at he
  rw [fracOf_eq, fracOf_eq] at hf
  apply BitVec.eq_of_toNat_eq
  omega

theorem isFinite_iff {h : Half} : isFinite h = true ↔ expOf h ≤ 30 := by
  have hlt : expOf h < 32 := by
    rw [expOf_eq]
    exact Nat.mod_lt _ (by decide)
  simp only [isFinite, bne_iff_ne]
  omega

/-- The value of a datum up to its sign, in units of 2^−48. -/
def scaled (h : Half) : ℕ := magnitude h * 2 ^ 24

/-- The integer of a sign and a magnitude. -/
def signed (s : Bool) (n : ℕ) : ℤ := if s then -(n : ℤ) else n

theorem intVal_scaled (h : Half) : intVal h * 2 ^ 24 = signed (signOf h) (scaled h) := by
  cases hs : signOf h <;> simp [intVal, signed, scaled, hs]

theorem val_eq_signed (h : Half) : val h = units (signed (signOf h) (scaled h)) := by
  rw [val_eq_units, intVal_scaled]

/-- A magnitude has at most 11 significant bits. -/
theorem magnitude_eq_mul_two_pow (h : Half) : ∃ c < 2048, magnitude h = c * 2 ^ (expOf h - 1) := by
  have hfrac := fracOf_lt h
  by_cases he : expOf h = 0
  · exact ⟨fracOf h, by omega, by simp [magnitude, he]⟩
  · exact ⟨1024 + fracOf h, by omega, by simp [magnitude, he]⟩

theorem scaled_le {h : Half} (hf : isFinite h = true) : scaled h ≤ 65504 * 2 ^ 48 := by
  obtain ⟨c, hc, hmag⟩ := magnitude_eq_mul_two_pow h
  have hexp := isFinite_iff.1 hf
  have hpow : 2 ^ (expOf h - 1) ≤ 2 ^ 29 := Nat.pow_le_pow_right (by decide) (by omega)
  have hmul : c * 2 ^ (expOf h - 1) ≤ 2047 * 2 ^ 29 := Nat.mul_le_mul (by omega) hpow
  rw [scaled, hmag]
  omega

/-- A datum from 2^l on is a multiple of the spacing 2^(l−10) of that binade. -/
theorem two_pow_dvd_scaled {h : Half} {k : ℕ} (hle : 2 ^ (k + 10) ≤ scaled h) : 2 ^ k ∣ scaled h := by
  obtain ⟨c, hc, hmag⟩ := magnitude_eq_mul_two_pow h
  have hscaled : scaled h = c * 2 ^ (expOf h - 1 + 24) := by rw [scaled, hmag, mul_assoc, ← pow_add]
  have hlt : 2 ^ (k + 10) < 2 ^ (11 + (expOf h - 1 + 24)) :=
    calc 2 ^ (k + 10) ≤ c * 2 ^ (expOf h - 1 + 24) := hscaled ▸ hle
      _ < 2 ^ 11 * 2 ^ (expOf h - 1 + 24) := (Nat.mul_lt_mul_right (by positivity)).2 hc
      _ = 2 ^ (11 + (expOf h - 1 + 24)) := (pow_add ..).symm
  have hexp := (Nat.pow_lt_pow_iff_right (by decide)).1 hlt
  rw [hscaled]
  exact Dvd.dvd.mul_left (pow_dvd_pow 2 (by omega)) c

/-! ## The datum of a sign and 15 bits -/

section
variable (s : Bool) {b : ℕ}

theorem toNat_withSign (hb : b < 32768) :
    (withSign s (BitVec.ofNat 15 b)).toNat = (if s then 32768 else 0) + b := by
  have hlt : b < 2 ^ 15 := by omega
  rw [withSign, BitVec.toNat_append, BitVec.toNat_ofNat, Nat.mod_eq_of_lt hlt, ← Nat.shiftLeft_add_eq_or_of_lt hlt]
  cases s <;> simp

theorem signOf_withSign (hb : b < 32768) : signOf (withSign s (BitVec.ofNat 15 b)) = s := by
  rw [signOf_eq, toNat_withSign s hb]
  cases s <;> simp [hb]

theorem expOf_withSign (hb : b < 32768) : expOf (withSign s (BitVec.ofNat 15 b)) = b / 1024 := by
  rw [expOf_eq, toNat_withSign s hb]
  cases s
  · simp only [Bool.false_eq_true, if_false]; omega
  · simp only [if_true]; omega

theorem fracOf_withSign (hb : b < 32768) : fracOf (withSign s (BitVec.ofNat 15 b)) = b % 1024 := by
  rw [fracOf_eq, toNat_withSign s hb]
  cases s
  · simp only [Bool.false_eq_true, if_false]; omega
  · simp only [if_true]; omega

theorem getLsbD_zero_withSign (hb : b < 32768) :
    (withSign s (BitVec.ofNat 15 b)).getLsbD 0 = decide (b % 2 = 1) := by
  rw [BitVec.getLsbD, toNat_withSign s hb, Nat.testBit_zero]
  cases s
  · simp only [Bool.false_eq_true, if_false, Nat.zero_add]
  · simp only [if_true, decide_eq_decide]; omega

end

theorem ofNat_append_ofNat {a c : ℕ} (ha : a < 2 ^ 5) (hc : c < 2 ^ 10) :
    (BitVec.ofNat 5 a ++ BitVec.ofNat 10 c : BitVec 15) = BitVec.ofNat 15 (a * 2 ^ 10 + c) := by
  have hac : a * 2 ^ 10 + c < 2 ^ 15 := by omega
  apply BitVec.eq_of_toNat_eq
  rw [BitVec.toNat_append, BitVec.toNat_ofNat, BitVec.toNat_ofNat, BitVec.toNat_ofNat, Nat.mod_eq_of_lt ha,
    Nat.mod_eq_of_lt hc, ← Nat.shiftLeft_add_eq_or_of_lt hc, Nat.shiftLeft_eq]
  exact (Nat.mod_eq_of_lt hac).symm

/-- R165: the packed datum has the exponent and the fraction next to each other; 2048 carries into the exponent. -/
theorem pack_eq {s : Bool} {e n : ℕ} (hlo : 1024 ≤ n) (hhi : n ≤ 2048) (he : e * 1024 + (n - 1024) < 31744) :
    pack s e n = withSign s (BitVec.ofNat 15 (e * 1024 + (n - 1024))) := by
  unfold pack
  split_ifs with hn
  · have hcarry : e * 1024 + (n - 1024) = (e + 1) * 1024 + 0 := by omega
    rw [hcarry]
    exact congrArg (withSign s) (ofNat_append_ofNat (a := e + 1) (c := 0) (by omega) (by omega))
  · exact congrArg (withSign s) (ofNat_append_ofNat (by omega) (by omega))

/-! ## `roundInt` (R167) -/

/-- A directed mode that rounds the magnitude of a number of sign `s` up. -/
def roundsAway (rm : RoundMode) (s : Bool) : Bool :=
  match rm with
  | .rn | .rz => false
  | .ru => !s
  | .rd => s

/-- `a` is `mag` rounded to one of the numbers `lo` ≤ `mag` < `hi` around it; `odd` says whether `a` is an odd multiple
of their distance. -/
structure RoundsTo (rm : RoundMode) (s : Bool) (mag lo hi a : ℕ) (odd : Bool) : Prop where
  lo_le : lo ≤ mag
  lt_hi : mag < hi
  lo_or_hi : a = lo ∨ a = hi
  exact_lo : mag = lo → a = lo
  nearest_lo : rm = .rn → a = lo → 2 * (mag - lo) ≤ hi - lo
  nearest_hi : rm = .rn → a = hi → hi - lo ≤ 2 * (mag - lo)
  tie : rm = .rn → 2 * (mag - lo) = hi - lo → odd = false
  toward : rm ≠ .rn → roundsAway rm s = false → a = lo
  away : rm ≠ .rn → roundsAway rm s = true → mag ≠ lo → a = hi

section
variable {num den : ℕ} {s : Bool} {rm : RoundMode}

theorem roundInt_of_mod_eq_zero (h : num % den = 0) : roundInt num den s rm = (num / den, false) := by
  simp [roundInt, h]

theorem roundInt_of_mod_ne_zero (h : num % den ≠ 0) : roundInt num den s rm =
    (if roundsUp rm s (num / den % 2 == 1) (compare (2 * (num % den)) den) then num / den + 1 else num / den,
      true) := by
  simp [roundInt, h]

theorem roundInt_inexact_iff : (roundInt num den s rm).2 = true ↔ ¬ den ∣ num := by
  rw [Nat.dvd_iff_mod_eq_zero]
  by_cases h : num % den = 0
  · simp [roundInt_of_mod_eq_zero h, h]
  · simp [roundInt_of_mod_ne_zero h, h]

/-- Rounding depends on the fraction alone. -/
theorem roundInt_mul_right {c : ℕ} (hc : 0 < c) : roundInt (num * c) (den * c) s rm = roundInt num den s rm := by
  have hcmp : compare (2 * (num % den * c)) (den * c) = compare (2 * (num % den)) den := by
    rw [← mul_assoc]
    simp only [Nat.compare_eq_ite_lt, Nat.mul_lt_mul_right hc]
  simp only [roundInt, Nat.mul_div_mul_right _ _ hc, Nat.mul_mod_mul_right, hcmp, Nat.mul_eq_zero, hc.ne', or_false]

theorem roundInt_cases : (roundInt num den s rm).1 = num / den ∨ (roundInt num den s rm).1 = num / den + 1 := by
  by_cases h : num % den = 0
  · exact .inl (by rw [roundInt_of_mod_eq_zero h])
  · rw [roundInt_of_mod_ne_zero h]
    split_ifs
    · exact .inr rfl
    · exact .inl rfl

theorem roundsUp_rn_iff {odd : Bool} {a b : ℕ} :
    roundsUp .rn s odd (compare a b) = true ↔ b < a ∨ (a = b ∧ odd = true) := by
  simp [roundsUp, compare_gt_iff_gt]

theorem roundsUp_of_ne_rn (h : rm ≠ .rn) (odd : Bool) (half : Ordering) :
    roundsUp rm s odd half = roundsAway rm s := by
  cases rm
  · exact absurd rfl h
  · rfl
  · rfl
  · rfl

/-- The two multiples of `den` around `num`, and the one that `roundInt` takes. -/
theorem roundInt_roundsTo (hden : 0 < den) : RoundsTo rm s num (num / den * den) (num / den * den + den)
    ((roundInt num den s rm).1 * den) (decide ((roundInt num den s rm).1 % 2 = 1)) := by
  have hdiv : num / den * den + num % den = num := Nat.div_add_mod' num den
  have hmod : num % den < den := Nat.mod_lt _ hden
  by_cases h : num % den = 0
  · rw [roundInt_of_mod_eq_zero h]
    have hexact : num / den * den = num := by omega
    simp only [hexact]
    constructor <;> omega
  · rw [roundInt_of_mod_ne_zero h]
    have hsucc : (num / den + 1) * den = num / den * den + den := Nat.succ_mul ..
    by_cases hup : roundsUp rm s (num / den % 2 == 1) (compare (2 * (num % den)) den) = true
    · have hrn (hrm : rm = .rn) : den < 2 * (num % den) ∨ (2 * (num % den) = den ∧ num / den % 2 = 1) := by
        subst hrm
        simpa using roundsUp_rn_iff.1 hup
      have haway (hrm : rm ≠ .rn) : roundsAway rm s = true := by rwa [roundsUp_of_ne_rn hrm] at hup
      simp only [hup, if_true, hsucc]
      constructor <;> grind
    · have hrn (hrm : rm = .rn) : ¬(den < 2 * (num % den) ∨ (2 * (num % den) = den ∧ num / den % 2 = 1)) := by
        subst hrm
        simpa using mt roundsUp_rn_iff.2 hup
      have haway (hrm : rm ≠ .rn) : roundsAway rm s ≠ true := by rwa [roundsUp_of_ne_rn hrm] at hup
      simp only [hup, Bool.false_eq_true, if_false]
      constructor <;> grind

end

/-! ## The rounding with unbounded exponent (R162) -/

/-- The magnitudes whose rounding with unbounded exponent is at least 2^j: under `RN` from halfway between 2^j and the
number of 11 significant bits below it, where the magnitude is rounded up from that number on. -/
def ReachesPow (rm : RoundMode) (s : Bool) (j mag : ℕ) : Prop :=
  (rm = .rn ∧ 4095 * 2 ^ j ≤ mag * 2 ^ 12) ∨ (rm ≠ .rn ∧ roundsAway rm s = true ∧ 2047 * 2 ^ j < mag * 2 ^ 11) ∨
    (rm ≠ .rn ∧ roundsAway rm s = false ∧ 2 ^ j ≤ mag)

theorem reachesPow_of_le {rm : RoundMode} {s : Bool} {j mag : ℕ} (h : 2 ^ j ≤ mag) : ReachesPow rm s j mag := by
  have hpos : 0 < 2 ^ j := by positivity
  by_cases hrm : rm = .rn
  · exact .inl ⟨hrm, by omega⟩
  · cases hs : roundsAway rm s
    · exact .inr (.inr ⟨hrm, hs, h⟩)
    · exact .inr (.inl ⟨hrm, hs, by omega⟩)

/-- Half the power is below every magnitude that reaches it. -/
theorem two_pow_le_of_reachesPow {rm : RoundMode} {s : Bool} {j mag : ℕ} (h : ReachesPow rm s (j + 1) mag) :
    2 ^ j ≤ mag := by
  simp only [ReachesPow, pow_succ] at h
  omega

theorem lt_two_mul_two_pow_log2 (mag : ℕ) : mag < 2 * 2 ^ mag.log2 := by
  rw [mul_comm, ← pow_succ]
  exact Nat.lt_log2_self

theorem significand_floor_lt (mag : ℕ) : mag * 2 ^ 10 / 2 ^ mag.log2 < 2048 := by
  have hlt := lt_two_mul_two_pow_log2 mag
  rw [Nat.div_lt_iff_lt_mul (by positivity)]
  omega

/-- Above an odd multiple `lo` of the spacing `p` the upper neighbour is taken from halfway on under `RN`, and above
`lo` where the magnitude is rounded up. -/
theorem RoundsTo.upper_iff {rm : RoundMode} {s : Bool} {num lo p a : ℕ} {odd : Bool}
    (h : RoundsTo rm s num lo (lo + p) a odd) (hp : 0 < p) (hodd : a = lo → odd = true) :
    lo + p ≤ a ↔ (rm = .rn ∧ p ≤ 2 * (num - lo)) ∨ (rm ≠ .rn ∧ roundsAway rm s = true ∧ lo < num) := by
  obtain ⟨hlo, hhi, hor, hexact, hnlo, hnhi, htie, htoward, haway⟩ := h
  by_cases hrm : rm = .rn
  · simp only [hrm, ne_eq, not_true_eq_false, true_and, false_and, or_false]
    grind
  · cases hs : roundsAway rm s
    · simp only [hrm, Bool.false_eq_true, false_and, and_false, or_false, iff_false, htoward hrm hs]
      omega
    · simp only [hrm, ne_eq, not_false_eq_true, true_and, false_and, false_or]
      grind

section
variable {rm : RoundMode} {s : Bool} {mag : ℕ} (hmag : mag ≠ 0)
include hmag

theorem significand_bounds : 1024 ≤ (significand rm s mag).1 ∧ (significand rm s mag).1 ≤ 2048 := by
  have hlo : 1024 ≤ mag * 2 ^ 10 / 2 ^ mag.log2 := by
    rw [Nat.le_div_iff_mul_le (by positivity), mul_comm]
    exact Nat.mul_le_mul_right _ (Nat.log2_self_le hmag)
  have hhi := significand_floor_lt mag
  have hn := roundInt_cases (num := mag * 2 ^ 10) (den := 2 ^ mag.log2) (s := s) (rm := rm)
  rw [significand]
  omega

omit hmag in
/-- In the binade below 2^j the rounding reaches 2^j where the significand carries. -/
theorem two_pow_le_significand_of_succ :
    2048 * 2 ^ mag.log2 ≤ (significand rm s mag).1 * 2 ^ mag.log2 ↔ ReachesPow rm s (mag.log2 + 1) mag := by
  have hround := roundInt_roundsTo (num := mag * 2 ^ 10) (rm := rm) (s := s) (den := 2 ^ mag.log2) (by positivity)
  rw [← significand] at hround
  have hlt := lt_two_mul_two_pow_log2 mag
  have hp : 0 < 2 ^ mag.log2 := by positivity
  have hfloor := significand_floor_lt mag
  rw [ReachesPow, pow_succ]
  obtain hlast | hbelow : mag * 2 ^ 10 / 2 ^ mag.log2 = 2047 ∨ mag * 2 ^ 10 / 2 ^ mag.log2 ≤ 2046 := by omega
  · rw [hlast] at hround
    have hupper := hround.upper_iff hp fun h => by
      rw [Nat.eq_of_mul_eq_mul_right hp h]
      rfl
    have hlo := hround.lo_le
    rw [(by ring : 2048 * 2 ^ mag.log2 = 2047 * 2 ^ mag.log2 + 2 ^ mag.log2), hupper]
    have hrn : 2 ^ mag.log2 ≤ 2 * (mag * 2 ^ 10 - 2047 * 2 ^ mag.log2) ↔ 4095 * (2 ^ mag.log2 * 2) ≤ mag * 2 ^ 12 := by
      omega
    have haway : 2047 * 2 ^ mag.log2 < mag * 2 ^ 10 ↔ 2047 * (2 ^ mag.log2 * 2) < mag * 2 ^ 11 := by omega
    have htoward : ¬ 2 ^ mag.log2 * 2 ≤ mag := by omega
    simp only [hrn, haway, htoward, and_false, or_false]
  · have hmul := Nat.mul_le_mul_right (2 ^ mag.log2) hbelow
    have hor := hround.lo_or_hi
    have hhi := hround.lt_hi
    generalize mag * 2 ^ 10 / 2 ^ mag.log2 * 2 ^ mag.log2 = lo at *
    omega

theorem two_pow_le_significand_iff {j : ℕ} (hj : 0 < j) :
    2 ^ (j + 10) ≤ (significand rm s mag).1 * 2 ^ mag.log2 ↔ ReachesPow rm s j mag := by
  obtain ⟨hlo, hhi⟩ := significand_bounds (rm := rm) (s := s) hmag
  have hlo' := Nat.mul_le_mul_right (2 ^ mag.log2) hlo
  have hhi' := Nat.mul_le_mul_right (2 ^ mag.log2) hhi
  have hle := Nat.log2_self_le hmag
  have hlt := lt_two_mul_two_pow_log2 mag
  rw [pow_add]
  obtain hbelow | rfl | habove := lt_trichotomy (mag.log2 + 1) j
  · have hpow : 2 ^ mag.log2 * 2 ^ 2 ≤ 2 ^ j := by
      rw [← pow_add]
      exact Nat.pow_le_pow_right (by decide) hbelow
    have hpos : 0 < 2 ^ mag.log2 := by positivity
    simp only [ReachesPow]
    omega
  · rw [← two_pow_le_significand_of_succ, pow_succ]
    omega
  · have hpow : 2 ^ j ≤ 2 ^ mag.log2 := Nat.pow_le_pow_right (by decide) (by omega)
    have hpos : 0 < 2 ^ j := by positivity
    exact iff_of_true (by omega) (reachesPow_of_le (by omega))

end

end Sys2Proof.Machine
end

section
/-! Rounding to a datum (R162 to R165): which of overflow, tiny and normal applies, the two data around the exact value,
and the statements about results. -/

namespace Sys2Proof.Machine

/-! ## Which of R163 to R165 applies -/

section
variable {rm : RoundMode} {m : FpMasks} {flush s : Bool} {mag : ℕ} {f : FpFlags} (hmag : mag ≠ 0)
include hmag

theorem roundFP_of_overflow (h : ReachesPow rm s 64 mag) :
    roundFP rm m flush s mag f = overflow rm m s (significand rm s mag).2 f :=
  if_pos ((two_pow_le_significand_iff hmag (by decide)).2 h)

theorem roundFP_of_tiny (h : ¬ ReachesPow rm s 34 mag) : roundFP rm m flush s mag f = tiny rm m flush s mag f := by
  have hlow : ¬ 2 ^ 44 ≤ (significand rm s mag).1 * 2 ^ mag.log2 :=
    mt (two_pow_le_significand_iff (j := 34) hmag (by decide)).1 h
  exact (if_neg (by change ¬ 2 ^ 74 ≤ (significand rm s mag).1 * 2 ^ mag.log2; omega)).trans (if_pos (not_le.1 hlow))

theorem roundFP_of_normal (h : ¬ ReachesPow rm s 64 mag) (h' : ReachesPow rm s 34 mag) :
    roundFP rm m flush s mag f =
      normal m s (significand rm s mag).2 (mag.log2 - 33) (significand rm s mag).1 f :=
  (if_neg (mt (two_pow_le_significand_iff hmag (by decide)).1 h)).trans
    (if_neg (not_lt.2 ((two_pow_le_significand_iff (j := 34) hmag (by decide)).2 h')))

omit hmag in
/-- The significand is the magnitude rounded to the spacing of its binade. -/
theorem significand_eq (h : 10 ≤ mag.log2) : significand rm s mag = roundInt mag (2 ^ (mag.log2 - 10)) s rm := by
  have hpow : 2 ^ mag.log2 = 2 ^ (mag.log2 - 10) * 2 ^ 10 := by rw [← pow_add, Nat.sub_add_cancel h]
  rw [significand, hpow, roundInt_mul_right (by decide)]

end

/-! ## The data around the exact value -/

/-- `r` is the datum of sign `s` that `mag` × 2^−48 is rounded to, and no datum lies strictly between `lo` and `hi`. -/
structure Delivered (rm : RoundMode) (s : Bool) (mag : ℕ) (r : Half) (lo hi : ℕ) : Prop where
  finite : isFinite r = true
  sign : signOf r = s
  rounds : RoundsTo rm s mag lo hi (scaled r) (r.getLsbD 0)
  gap : ∀ h, isFinite h = true → scaled h ≤ lo ∨ hi ≤ scaled h

theorem magnitude_withSign {s : Bool} {b : ℕ} (hb : b < 32768) : magnitude (withSign s (BitVec.ofNat 15 b)) =
    if b / 1024 = 0 then b % 1024 else (1024 + b % 1024) * 2 ^ (b / 1024 - 1) := by
  rw [magnitude, expOf_withSign s hb, fracOf_withSign s hb]

/-- Up to 1024 the 15 bits are the magnitude: denormals, and the least normal. -/
theorem magnitude_withSign_of_le {s : Bool} {b : ℕ} (hb : b ≤ 1024) :
    magnitude (withSign s (BitVec.ofNat 15 b)) = b := by
  rw [magnitude_withSign (by omega)]
  obtain hlt | rfl := Nat.lt_or_eq_of_le hb
  · rw [if_pos (by omega), Nat.mod_eq_of_lt hlt]
  · rfl

theorem isFinite_withSign {s : Bool} {b : ℕ} (hb : b < 31744) : isFinite (withSign s (BitVec.ofNat 15 b)) = true := by
  rw [isFinite_iff, expOf_withSign s (by omega)]
  omega

theorem delivered_zeroOf (rm : RoundMode) (s : Bool) : Delivered rm s 0 (zeroOf s) 0 1 := by
  have hscaled : scaled (zeroOf s) = 0 := by cases s <;> rfl
  have hbit : (zeroOf s).getLsbD 0 = false := by cases s <;> rfl
  refine ⟨by cases s <;> rfl, by cases s <;> rfl, ?_, fun h _ => by omega⟩
  rw [hscaled, hbit]
  constructor <;> simp

section
variable {rm : RoundMode} {s : Bool} {mag : ℕ}

/-- R164: a tiny magnitude is delivered as a multiple of 2^−24. -/
theorem delivered_tiny (h : ¬ ReachesPow rm s 34 mag) :
    Delivered rm s mag (withSign s (BitVec.ofNat 15 (roundInt mag (2 ^ 24) s rm).1))
      (mag / 2 ^ 24 * 2 ^ 24) (mag / 2 ^ 24 * 2 ^ 24 + 2 ^ 24) := by
  have hlt : mag < 2 ^ 34 := by
    by_contra hge
    exact h (reachesPow_of_le (not_lt.1 hge))
  have hn : (roundInt mag (2 ^ 24) s rm).1 ≤ 1024 := by
    have hcases := roundInt_cases (num := mag) (den := 2 ^ 24) (s := s) (rm := rm)
    omega
  refine ⟨isFinite_withSign (by omega), signOf_withSign s (by omega), ?_, fun h _ => ?_⟩
  · rw [scaled, magnitude_withSign_of_le hn, getLsbD_zero_withSign s (by omega)]
    exact roundInt_roundsTo (by decide)
  · rw [scaled]
    omega

/-- The magnitude of a packed datum, doubled: `n` = 2048 with `e` = 0 is the least normal. -/
theorem two_mul_magnitude_pack {b e n : ℕ} (hlo : 1024 ≤ n) (hhi : n ≤ 2048) (he : b = e * 1024 + (n - 1024))
    (hb : b < 31744) (hb' : 1024 ≤ b) : 2 * magnitude (withSign s (BitVec.ofNat 15 b)) = n * 2 ^ e := by
  rw [magnitude_withSign (by omega), if_neg (by omega)]
  obtain hlt | rfl := Nat.lt_or_eq_of_le hhi
  · obtain ⟨e, rfl⟩ : ∃ k, e = k + 1 := ⟨e - 1, by omega⟩
    rw [(by omega : b / 1024 = e + 1), (by omega : 1024 + b % 1024 = n), pow_succ, Nat.add_sub_cancel]
    ring
  · rw [(by omega : b / 1024 = e + 1), (by omega : 1024 + b % 1024 = 1024), Nat.add_sub_cancel]
    ring

/-- No datum lies between two neighbouring multiples of the spacing of a binade. -/
theorem scaled_le_or_ge (h : Half) {k : ℕ} (hle : 2 ^ (k + 10) ≤ mag) :
    scaled h ≤ mag / 2 ^ k * 2 ^ k ∨ mag / 2 ^ k * 2 ^ k + 2 ^ k ≤ scaled h := by
  by_cases hsmall : scaled h < 2 ^ (k + 10)
  · have hfloor : 2 ^ 10 ≤ mag / 2 ^ k := by
      rw [Nat.le_div_iff_mul_le (by positivity), ← pow_add, add_comm]
      exact hle
    have hmul := Nat.mul_le_mul_right (2 ^ k) hfloor
    rw [← pow_add, add_comm 10] at hmul
    exact .inl (hsmall.le.trans hmul)
  · obtain ⟨c, hc⟩ := two_pow_dvd_scaled (not_lt.1 hsmall)
    rw [hc, mul_comm _ c, ← Nat.succ_mul]
    obtain hlt | hge := Nat.lt_or_ge (mag / 2 ^ k) c
    · exact .inr (Nat.mul_le_mul_right _ hlt)
    · exact .inl (Nat.mul_le_mul_right _ hge)

/-- R165: a normal magnitude is delivered as a multiple of the spacing of its binade. -/
theorem delivered_normal (hmag : mag ≠ 0) (h : ¬ ReachesPow rm s 64 mag) (h' : ReachesPow rm s 34 mag) :
    Delivered rm s mag (pack s (mag.log2 - 33) (significand rm s mag).1)
      (mag / 2 ^ (mag.log2 - 10) * 2 ^ (mag.log2 - 10))
      (mag / 2 ^ (mag.log2 - 10) * 2 ^ (mag.log2 - 10) + 2 ^ (mag.log2 - 10)) := by
  obtain ⟨hlo, hhi⟩ := significand_bounds (rm := rm) (s := s) hmag
  have hmin : 2 ^ 44 ≤ (significand rm s mag).1 * 2 ^ mag.log2 :=
    (two_pow_le_significand_iff hmag (by decide)).2 h'
  have hmax : ¬ 2 ^ 74 ≤ (significand rm s mag).1 * 2 ^ mag.log2 :=
    mt (two_pow_le_significand_iff hmag (by decide)).1 h
  have hl : 33 ≤ mag.log2 := (Nat.le_log2 hmag).2 (two_pow_le_of_reachesPow h')
  have hl' : mag.log2 < 64 := (Nat.log2_lt hmag).2 (not_le.1 (mt reachesPow_of_le h))
  have hround := roundInt_roundsTo (num := mag) (rm := rm) (s := s) (den := 2 ^ (mag.log2 - 10)) (by positivity)
  rw [← significand_eq (by omega)] at hround
  have hle := Nat.log2_self_le hmag
  obtain ⟨e, he⟩ : ∃ e, mag.log2 = e + 33 := ⟨mag.log2 - 33, by omega⟩
  rw [he] at hmin hmax hle hround ⊢
  rw [(by omega : e + 33 - 10 = e + 23)] at hround ⊢
  rw [Nat.add_sub_cancel]
  generalize (significand rm s mag).1 = n at *
  have hleast : e = 0 → n = 2048 := by
    rintro rfl
    omega
  have hmost : e = 30 → n < 2048 := by
    rintro rfl
    omega
  rw [pack_eq hlo hhi (by omega)]
  generalize hb : e * 1024 + (n - 1024) = b
  have hscaled : scaled (withSign s (BitVec.ofNat 15 b)) = n * 2 ^ (e + 23) := by
    have htwo := two_mul_magnitude_pack (s := s) hlo hhi hb.symm (by omega) (by omega)
    rw [scaled, pow_add, ← mul_assoc, ← htwo]
    ring
  refine ⟨isFinite_withSign (by omega), signOf_withSign s (by omega), ?_, fun h _ => ?_⟩
  · rw [hscaled, getLsbD_zero_withSign s (by omega), (by omega : b % 2 = n % 2)]
    exact hround
  · exact scaled_le_or_ge h hle

end

end Sys2Proof.Machine
end

section
/-! What a result of FMS16 for finite operands is (R155, R161 to R167), and the statements about results (R173). -/

namespace Sys2Proof.Machine

/-! ## The results of R163 to R165 -/

section
variable {rm : RoundMode} {m : FpMasks} {flush s inexact : Bool} {mag e n : ℕ} {f g : FpFlags} {r : Half}

theorem overflow_result (h : overflow rm m s inexact f = .result r g) : r = overflowResult rm s ∧ g.pe = true := by
  unfold overflow at h
  split_ifs at h
  cases h
  exact ⟨rfl, rfl⟩

/-- The flags of a delivered datum: PE where it is inexact, and no more than before where it is exact. -/
def DeliveredFlags (inexact : Bool) (f g : FpFlags) : Prop :=
  (inexact = false → g = f) ∧ (inexact = true → g.pe = true)

theorem normal_result (h : normal m s inexact e n f = .result r g) :
    r = pack s e n ∧ DeliveredFlags inexact f g := by
  unfold normal at h
  cases inexact with
  | false =>
    cases h
    exact ⟨rfl, fun _ => rfl, fun h => absurd h (by decide)⟩
  | true =>
    simp only [if_true] at h
    split_ifs at h
    cases h
    exact ⟨rfl, fun h => absurd h (by decide), fun _ => rfl⟩

theorem tiny_result (h : tiny rm m flush s mag f = .result r g) :
    (flush = true ∧ r = zeroOf s) ∨
      (r = withSign s (BitVec.ofNat 15 (roundInt mag (2 ^ 24) s rm).1) ∧
        DeliveredFlags (roundInt mag (2 ^ 24) s rm).2 f g) := by
  unfold tiny at h
  generalize roundInt mag (2 ^ 24) s rm = p at *
  obtain ⟨nd, inexact⟩ := p
  simp only at h ⊢
  split_ifs at h with hum hflush hpm hinexact hpm
  · cases h
    exact .inl ⟨hflush, rfl⟩
  · cases h
    exact .inr ⟨rfl, fun h => absurd (h.symm.trans hinexact) (by decide), fun _ => rfl⟩
  · cases h
    exact .inr ⟨rfl, fun _ => rfl, fun h => absurd h hinexact⟩

end

/-- What a result of step 6 is: the masked overflow, a flushed zero, or the datum delivered. -/
inductive RoundResult (rm : RoundMode) (flush s : Bool) (mag : ℕ) (f : FpFlags) (r : Half) (g : FpFlags) : Prop
  | overflow (hreach : ReachesPow rm s 64 mag) (hr : r = overflowResult rm s) (hpe : g.pe = true)
  | flushed (hflush : flush = true) (hr : r = zeroOf s)
  | delivered (lo hi : ℕ) (hreach : ¬ ReachesPow rm s 64 mag) (hr : Delivered rm s mag r lo hi)
      (hexact : mag = lo → g = f) (hinexact : mag ≠ lo → g.pe = true)

/-- Rounding to a multiple of `den` is inexact where the number is none. -/
theorem roundInt_inexact_eq (num den : ℕ) (s : Bool) (rm : RoundMode) :
    (roundInt num den s rm).2 = decide (num ≠ num / den * den) := by
  rw [Bool.eq_iff_iff, roundInt_inexact_iff, decide_eq_true_iff, Nat.dvd_iff_div_mul_eq, ne_eq, eq_comm]

section
variable {rm : RoundMode} {m : FpMasks} {flush s : Bool} {mag : ℕ} {f g : FpFlags} {r : Half}

theorem DeliveredFlags.roundResult {den : ℕ} (hreach : ¬ ReachesPow rm s 64 mag)
    (hr : Delivered rm s mag r (mag / den * den) (mag / den * den + den))
    (hg : DeliveredFlags (roundInt mag den s rm).2 f g) : RoundResult rm flush s mag f r g := by
  obtain ⟨hexact, hinexact⟩ := hg
  rw [roundInt_inexact_eq] at hexact hinexact
  exact .delivered _ _ hreach hr (fun h => hexact (by simpa using h)) (fun h => hinexact (by simpa using h))

theorem not_reachesPow_of_lt {j k : ℕ} (hjk : j < k) (h : ¬ ReachesPow rm s j mag) : ¬ ReachesPow rm s k mag :=
  fun hk => by
    obtain ⟨k, rfl⟩ : ∃ i, k = i + 1 := ⟨k - 1, by omega⟩
    exact h (reachesPow_of_le ((Nat.pow_le_pow_right (by decide) (by omega)).trans (two_pow_le_of_reachesPow hk)))

theorem roundFP_result (hmag : mag ≠ 0) (h : roundFP rm m flush s mag f = .result r g) :
    RoundResult rm flush s mag f r g := by
  by_cases hover : ReachesPow rm s 64 mag
  · rw [roundFP_of_overflow hmag hover] at h
    obtain ⟨hr, hpe⟩ := overflow_result h
    exact .overflow hover hr hpe
  by_cases hnormal : ReachesPow rm s 34 mag
  · have hl : 33 ≤ mag.log2 := (Nat.le_log2 hmag).2 (two_pow_le_of_reachesPow hnormal)
    rw [roundFP_of_normal hmag hover hnormal] at h
    obtain ⟨rfl, hg⟩ := normal_result h
    rw [significand_eq (by omega)] at hg
    exact hg.roundResult hover (delivered_normal hmag hover hnormal)
  · rw [roundFP_of_tiny hmag hnormal] at h
    obtain ⟨hflush, hr⟩ | ⟨rfl, hg⟩ := tiny_result h
    · exact .flushed hflush hr
    · exact hg.roundResult hover (delivered_tiny hnormal)

end

/-! ## A result is never an SNaN (R173 (2)) -/

theorem isSNaN_of_isFinite {h : Half} (hf : isFinite h = true) : isSNaN h = false :=
  isSNaN_eq_false_of_isNaN_eq_false (isNaN_eq_false_of_isFinite hf)

theorem isSNaN_infinity (s : Bool) : isSNaN (infinity s) = false := by cases s <;> rfl

theorem isSNaN_zeroOf (s : Bool) : isSNaN (zeroOf s) = false := by cases s <;> rfl

theorem isSNaN_overflowResult (rm : RoundMode) (s : Bool) : isSNaN (overflowResult rm s) = false := by
  cases rm <;> cases s <;> rfl

theorem RoundResult.isSNaN {rm : RoundMode} {flush s : Bool} {mag : ℕ} {f g : FpFlags} {r : Half}
    (h : RoundResult rm flush s mag f r g) : isSNaN r = false := by
  cases h with
  | overflow _ hr _ => rw [hr, isSNaN_overflowResult]
  | flushed _ hr => rw [hr, isSNaN_zeroOf]
  | delivered _ _ _ hr _ _ => exact isSNaN_of_isFinite hr.finite

theorem finiteSteps_result_isSNaN {rm : RoundMode} {m : FpMasks} {flush neg : Bool} {x y z r : Half} {g : FpFlags}
    (h : finiteSteps rm m flush neg x y z = .result r g) : isSNaN r = false := by
  cases hm : anyDen x y z && !m.dm
  · rw [finiteSteps_of_masked_den hm] at h
    split_ifs at h with hfactor hz hv
    · cases h
      exact isSNaN_infinity _
    · cases h
      exact isSNaN_infinity _
    · cases h
      exact isSNaN_zeroOf _
    · exact (roundFP_result (Int.natAbs_ne_zero.2 hv) h).isSNaN
  · obtain ⟨hden, hdm⟩ : anyDen x y z = true ∧ m.dm = false := by simpa using hm
    rw [finiteSteps_of_unmasked_den hden hdm] at h
    cases h

theorem nanResult_result_isSNaN {p : FpParams} {m : FpMasks} {x y z r : Half} {g : FpFlags}
    (h : nanResult p m x y z = .result r g) : isSNaN r = false := by
  unfold nanResult at h
  simp only at h
  split_ifs at h
  cases h
  exact isSNaN_quiet _

theorem fmsSteps_result_isSNaN {e : FmsEnv} {m : FpMasks} {neg : Bool} {x y z r : Half} {g : FpFlags}
    (h : fmsSteps e m neg x y z = .result r g) : isSNaN r = false := by
  unfold fmsSteps at h
  simp only at h
  split_ifs at h
  · exact nanResult_result_isSNaN h
  · cases h
    rfl
  · exact finiteSteps_result_isSNaN h

/-- A result of FMS16 is that of its steps; under `sae` the flags are dropped (R154). -/
theorem fms16_result {e : FmsEnv} {neg : Bool} {x y z r : Half} {f : FpFlags} (h : fms16 e neg x y z = .result r f) :
    ∃ m g, fmsSteps e m neg x y z = .result r g ∧ ((m = e.masks ∧ f = g) ∨ (e.sae = true ∧ f = {})) := by
  cases hsae : e.sae with
  | false =>
    rw [fms16_of_not_sae hsae] at h
    exact ⟨_, _, h, .inl ⟨rfl, rfl⟩⟩
  | true =>
    rw [fms16_of_sae hsae] at h
    obtain ⟨r', g, hsteps⟩ := FmsOutcome.delivers_iff.1 (fmsSteps_delivers e neg x y z)
    rw [hsteps] at h
    cases h
    exact ⟨_, _, hsteps, .inr ⟨rfl, rfl⟩⟩

/-- Settles O57: every step that answers a result answers no SNaN; the rest is that the outcome is delivered. -/
theorem resultIsNeverSignalling : Obligations.ResultIsNeverSignalling := by
  intro e neg x y z
  refine ⟨fun r f h => ?_, fun hall => FmsOutcome.delivers_iff.1 (fms16_delivers (.inl hall) ..), fun hsae => ?_⟩
  · obtain ⟨m, g, hsteps, -⟩ := fms16_result h
    exact fmsSteps_result_isSNaN hsteps
  · obtain ⟨r, f, h⟩ := FmsOutcome.delivers_iff.1 (fms16_delivers (.inr hsae) neg x y z)
    have hf : f = {} := by
      have hempty := fms16_flags_of_sae hsae neg x y z
      rwa [h] at hempty
    exact ⟨r, hf ▸ h⟩

/-! ## The result for finite operands (R155) -/

theorem signed_natAbs (v : ℤ) : signed (decide (v < 0)) v.natAbs = v := by
  by_cases h : v < 0
  · simp only [h, decide_true, signed, if_true]; omega
  · simp only [h, decide_false, signed, Bool.false_eq_true, if_false]; omega

/-- The threshold of R163 in rational numbers and in units. -/
theorem overflows_iff (rm : RoundMode) (v : ℤ) :
    Overflows rm (units v) ↔ ReachesPow rm (decide (v < 0)) 64 v.natAbs := by
  have h1 : (65520 : ℚ) = units (65520 * 2 ^ 48) := by norm_num [units]
  have h2 : (65536 : ℚ) = units (65536 * 2 ^ 48) := by norm_num [units]
  have h3 : (65504 : ℚ) = units (65504 * 2 ^ 48) := by norm_num [units]
  cases rm
  all_goals
    simp only [Overflows, ReachesPow, roundsAway, h1, h2, h3, neg_units, abs_units, units_le_units, units_lt_units,
      Int.abs_eq_natAbs, ne_eq, reduceCtorEq, not_true_eq_false, not_false_eq_true, true_and, false_and, false_or,
      or_false, decide_eq_true_eq, decide_eq_false_iff_not, Bool.not_eq_true', Bool.not_eq_false', Bool.false_eq_true]
    omega

/-- What a result of steps 5 and 6 for finite operands is, where `v` × 2^−48 is the exact value: the masked overflow, or
a delivered datum. -/
inductive FiniteResult (rm : RoundMode) (v : ℤ) (f : FpFlags) (r : Half) (g : FpFlags) : Prop
  | overflow (hover : Overflows rm (units v)) (hr : r = overflowResult rm (decide (v < 0))) (hpe : g.pe = true)
  | delivered (s : Bool) (lo hi : ℕ) (hv : signed s v.natAbs = v) (hover : ¬ Overflows rm (units v))
      (hr : Delivered rm s v.natAbs r lo hi) (hexact : v.natAbs = lo → g = f) (hinexact : v.natAbs ≠ lo → g.pe = true)

theorem FiniteResult.zero (rm : RoundMode) (s : Bool) (f : FpFlags) : FiniteResult rm 0 f (zeroOf s) f := by
  refine .delivered s 0 1 (by cases s <;> rfl) ?_ (delivered_zeroOf rm s) (fun _ => rfl) (fun h => absurd rfl h)
  rw [overflows_iff]
  simp [ReachesPow]

theorem RoundResult.finiteResult {rm : RoundMode} {v : ℤ} {f g : FpFlags} {r : Half}
    (h : RoundResult rm false (decide (v < 0)) v.natAbs f r g) : FiniteResult rm v f r g := by
  cases h with
  | overflow hreach hr hpe => exact .overflow ((overflows_iff ..).2 hreach) hr hpe
  | flushed hflush _ => cases hflush
  | delivered lo hi hreach hr hexact hinexact =>
    exact .delivered _ lo hi (signed_natAbs v) (mt (overflows_iff ..).1 hreach) hr hexact hinexact

section
variable {e : FmsEnv} {m : FpMasks} {neg : Bool} {x y z r : Half} {f g : FpFlags}
  (hp : e.params.honoursDazFtz = false) (hx : isFinite x = true) (hy : isFinite y = true) (hz : isFinite z = true)
include hp hx hy hz

theorem fmsSteps_result_of_isFinite (h : fmsSteps e m neg x y z = .result r g) :
    FiniteResult e.rm (exactValue neg x y z) { de := anyDen x y z } r g := by
  rw [fmsSteps_of_isFinite hx hy hz hp] at h
  cases hm : anyDen x y z && !m.dm
  · rw [finiteSteps_of_isFinite hx hy hz hm] at h
    split_ifs at h with hv
    · cases h
      rw [hv]
      exact .zero ..
    · exact (roundFP_result (Int.natAbs_ne_zero.2 hv) h).finiteResult
  · obtain ⟨hden, hdm⟩ : anyDen x y z = true ∧ m.dm = false := by simpa using hm
    rw [finiteSteps_of_unmasked_den hden hdm] at h
    cases h

theorem fms16_result_of_isFinite (h : fms16 e neg x y z = .result r f) :
    ∃ g, FiniteResult e.rm (exactValue neg x y z) { de := anyDen x y z } r g ∧ (f = g ∨ f = {}) := by
  obtain ⟨m, g, hsteps, hf⟩ := fms16_result h
  exact ⟨g, fmsSteps_result_of_isFinite hp hx hy hz hsteps, hf.imp And.right And.right⟩

end

end Sys2Proof.Machine
end

section
/-! The statements about rounding in rational numbers (R155, R162 to R167, R173 (5)). -/

namespace Sys2Proof.Machine

/-! ## The sign of a result (R155) -/

theorem signOf_overflowResult (rm : RoundMode) (s : Bool) : signOf (overflowResult rm s) = s := by
  cases rm <;> cases s <;> rfl

theorem eq_decide_of_signed {s : Bool} {v : ℤ} (hv : signed s v.natAbs = v) (hne : v ≠ 0) : s = decide (v < 0) := by
  cases s
  · simp only [signed, Bool.false_eq_true, if_false] at hv
    exact (decide_eq_false (by omega)).symm
  · simp only [signed, if_true] at hv
    exact (decide_eq_true (by omega)).symm

theorem units_neg_iff {v : ℤ} : units v < 0 ↔ v < 0 := by
  have hzero : (0 : ℚ) = units 0 := by simp [units]
  rw [hzero, units_lt_units]

theorem FiniteResult.sign {rm : RoundMode} {v : ℤ} {f g : FpFlags} {r : Half} (h : FiniteResult rm v f r g)
    (hne : units v ≠ 0) : r.getLsbD 15 = true ↔ units v < 0 := by
  have hsign : signOf r = decide (v < 0) := by
    cases h with
    | overflow _ hr _ => rw [hr, signOf_overflowResult]
    | delivered s lo hi hv _ hr _ _ => rw [hr.sign, eq_decide_of_signed hv (mt units_eq_zero.2 hne)]
  rw [units_neg_iff, ← signOf, hsign, decide_eq_true_eq]

/-! ## A delivered datum among the data of both signs -/

section
variable {rm : RoundMode} {s t : Bool} {mag lo hi a b : ℕ} {odd : Bool}

/-- The distance of a number from one of a sign and a magnitude, by the signs. -/
theorem abs_signed_sub : |signed t b - signed s a| = if t = s then (max a b - min a b : ℕ) else (a + b : ℕ) := by
  rw [Int.abs_eq_natAbs]
  cases t <;> cases s
  all_goals
    simp only [signed, Bool.false_eq_true, reduceCtorEq, if_true, if_false]
    omega

theorem signed_le_signed : signed t b ≤ signed s a ↔
    (t = false ∧ s = false ∧ b ≤ a) ∨ (t = true ∧ s = true ∧ a ≤ b) ∨ (t = true ∧ s = false) ∨
      (t = false ∧ s = true ∧ a = 0 ∧ b = 0) := by
  cases t <;> cases s
  case false.false => simp [signed]
  case false.true => simp [signed]; omega
  case true.false => simp [signed]
  case true.true => simp [signed]

theorem RoundsTo.dist_le (h : RoundsTo .rn s mag lo hi a odd) (hb : b ≤ lo ∨ hi ≤ b) (t : Bool) :
    |signed s a - signed s mag| ≤ |signed t b - signed s mag| := by
  obtain ⟨hlo, hhi, hor, hexact, hnlo, hnhi, -, -, -⟩ := h
  rw [abs_signed_sub, abs_signed_sub, if_pos rfl]
  split_ifs <;> grind

theorem RoundsTo.even_of_dist_eq (h : RoundsTo .rn s mag lo hi a odd) (hb : b ≤ lo ∨ hi ≤ b)
    (hne : signed t b ≠ signed s a) (hdist : |signed t b - signed s mag| = |signed s a - signed s mag|) :
    odd = false := by
  refine h.tie rfl ?_
  obtain ⟨hlo, hhi, hor, hexact, hnlo, hnhi, -, -, -⟩ := h
  have hzero : ¬(a = 0 ∧ b = 0) := by
    rintro ⟨rfl, rfl⟩
    exact hne (by simp [signed])
  rw [abs_signed_sub, abs_signed_sub, if_pos rfl] at hdist
  split_ifs at hdist with hts
  · have hba : b ≠ a := fun h => hne (by rw [hts, h])
    grind
  · grind

/-- Where the magnitude is rounded away from zero for negative numbers only, the value is rounded down. -/
theorem RoundsTo.isGreatest (h : RoundsTo rm s mag lo hi a odd) (hrm : rm ≠ .rn)
    (hdown : roundsAway rm s = s ∨ mag = 0) : signed s a ≤ signed s mag ∧
      ∀ (t : Bool) (b : ℕ), (b ≤ lo ∨ hi ≤ b) → signed t b ≤ signed s mag → signed t b ≤ signed s a := by
  obtain ⟨hlo, hhi, hor, hexact, -, -, -, htoward, haway⟩ := h
  simp only [signed_le_signed]
  cases s <;> grind

/-- Where the magnitude is rounded away from zero for positive numbers only, the value is rounded up. -/
theorem RoundsTo.isLeast (h : RoundsTo rm s mag lo hi a odd) (hrm : rm ≠ .rn)
    (hup : roundsAway rm s = !s ∨ mag = 0) : signed s mag ≤ signed s a ∧
      ∀ (t : Bool) (b : ℕ), (b ≤ lo ∨ hi ≤ b) → signed s mag ≤ signed t b → signed s a ≤ signed t b := by
  obtain ⟨hlo, hhi, hor, hexact, -, -, -, htoward, haway⟩ := h
  simp only [signed_le_signed]
  cases s <;> grind

end

/-! ## To nearest -/

section
variable {s : Bool} {v : ℤ} {lo hi : ℕ} {r : Half} (hv : signed s v.natAbs = v)
include hv

theorem Delivered.nearest (hr : Delivered .rn s v.natAbs r lo hi) {h : Half} (hf : isFinite h = true) :
    |val r - units v| ≤ |val h - units v| := by
  have hdist := hr.rounds.dist_le (hr.gap h hf) (signOf h)
  rw [hv, ← hr.sign] at hdist
  rw [val_eq_signed, val_eq_signed, units_sub, units_sub, abs_units, abs_units, units_le_units]
  exact hdist

theorem Delivered.even_of_tie (hr : Delivered .rn s v.natAbs r lo hi) {h : Half} (hf : isFinite h = true)
    (hne : val h ≠ val r) (hdist : |val h - units v| = |val r - units v|) : r.getLsbD 0 = false := by
  rw [val_eq_signed, val_eq_signed, units_sub, units_sub, abs_units, abs_units, units_inj, hr.sign] at hdist
  rw [val_eq_signed, val_eq_signed, ne_eq, units_inj, hr.sign] at hne
  exact hr.rounds.even_of_dist_eq (hr.gap h hf) hne (by rw [hv]; exact hdist)

end

/-- Settles O52: a delivered datum is the nearest; from 65520 on the masked overflow is answered. -/
theorem roundToNearest : Obligations.RoundToNearest := by
  intro e neg x y z r f hp hrm hx hy hz h
  obtain ⟨g, hres, -⟩ := fms16_result_of_isFinite hp hx hy hz h
  rw [exactReal_eq_units, hrm] at *
  generalize exactValue neg x y z = v at *
  have hbig (hover : (65520 : ℚ) ≤ |units v|) : r = overflowResult .rn (decide (v < 0)) := by
    cases hres with
    | overflow _ hr _ => exact hr
    | delivered _ _ _ _ hnot _ _ _ => exact absurd hover hnot
  refine ⟨fun hlt => ?_, fun hge => ?_, fun hle => ?_, hres.sign⟩
  · cases hres with
    | overflow hover _ _ => exact absurd hlt (not_lt.2 hover)
    | delivered s lo hi hv _ hr _ _ =>
      exact ⟨hr.finite, fun h hf => hr.nearest hv hf, fun h hf => hr.even_of_tie hv hf⟩
  · have hnonneg : ¬ v < 0 := fun h => by linarith [units_neg_iff.2 h]
    rw [hbig (hge.trans (le_abs_self _)), decide_eq_false hnonneg]
    rfl
  · have hneg : v < 0 := units_neg_iff.1 (by linarith)
    rw [hbig ((le_neg.1 hle).trans (neg_le_abs _)), decide_eq_true hneg]
    rfl

/-! ## In a direction -/

/-- `r` is the greatest finite datum not above `v`. -/
def IsFloor (v : ℚ) (r : Half) : Prop :=
  isFinite r = true ∧ val r ≤ v ∧ ∀ h, isFinite h = true → val h ≤ v → val h ≤ val r

/-- `r` is the least finite datum not below `v`. -/
def IsCeil (v : ℚ) (r : Half) : Prop :=
  isFinite r = true ∧ v ≤ val r ∧ ∀ h, isFinite h = true → v ≤ val h → val r ≤ val h

section
variable {rm : RoundMode} {s : Bool} {v : ℤ} {lo hi : ℕ} {r : Half} (hv : signed s v.natAbs = v)
  (hr : Delivered rm s v.natAbs r lo hi) (hrm : rm ≠ .rn)
include hv hr hrm

theorem Delivered.isFloor (hdown : roundsAway rm s = s ∨ v = 0) : IsFloor (units v) r := by
  obtain ⟨hle, hgreatest⟩ := hr.rounds.isGreatest hrm (hdown.imp_right Int.natAbs_eq_zero.2)
  rw [hv] at hle hgreatest
  refine ⟨hr.finite, ?_, fun h hf => ?_⟩
  · rwa [val_eq_signed, hr.sign, units_le_units]
  · rw [val_eq_signed, val_eq_signed, hr.sign, units_le_units, units_le_units]
    exact hgreatest (signOf h) (scaled h) (hr.gap h hf)

theorem Delivered.isCeil (hup : roundsAway rm s = !s ∨ v = 0) : IsCeil (units v) r := by
  obtain ⟨hle, hleast⟩ := hr.rounds.isLeast hrm (hup.imp_right Int.natAbs_eq_zero.2)
  rw [hv] at hle hleast
  refine ⟨hr.finite, ?_, fun h hf => ?_⟩
  · rwa [val_eq_signed, hr.sign, units_le_units]
  · rw [val_eq_signed, val_eq_signed, hr.sign, units_le_units, units_le_units]
    exact hleast (signOf h) (scaled h) (hr.gap h hf)

end

theorem val_largest (s : Bool) : val (largest s) = if s then -65504 else 65504 := by
  have hint : intVal (largest s) = if s then -(65504 * 2 ^ 24) else 65504 * 2 ^ 24 := by cases s <;> rfl
  rw [val, hint]
  cases s <;> norm_num

theorem isFinite_largest (s : Bool) : isFinite (largest s) = true := by cases s <;> rfl

theorem abs_val_le {h : Half} (hf : isFinite h = true) : |val h| ≤ 65504 := by
  have hmax : (65504 : ℚ) = units (65504 * 2 ^ 48) := by norm_num [units]
  have hle := scaled_le hf
  rw [val_eq_signed, abs_units, hmax, units_le_units, Int.abs_eq_natAbs]
  cases signOf h
  all_goals
    simp only [signed, Bool.false_eq_true, if_true, if_false]
    omega

theorem isFloor_largest {v : ℚ} (hv : 65504 ≤ v) : IsFloor v (largest false) := by
  have hval : val (largest false) = 65504 := val_largest false
  exact ⟨isFinite_largest false, hval ▸ hv, fun h hf _ => hval ▸ (le_abs_self _).trans (abs_val_le hf)⟩

theorem isCeil_largest {v : ℚ} (hv : v ≤ -65504) : IsCeil v (largest true) := by
  have hval : val (largest true) = -65504 := val_largest true
  exact ⟨isFinite_largest true, hval ▸ hv, fun h hf _ => hval ▸ neg_le_of_abs_le (abs_val_le hf)⟩

section
variable {rm : RoundMode} {v : ℤ} {f g : FpFlags} {r : Half} (h : FiniteResult rm v f r g)
include h

theorem FiniteResult.isFloor (hdown : (rm = .rd ∧ -65504 ≤ units v) ∨ (rm = .rz ∧ 0 ≤ units v)) :
    IsFloor (units v) r := by
  cases h with
  | overflow hover hr _ =>
    have hbig : 65536 ≤ units v := by
      obtain ⟨rfl, hle⟩ | ⟨rfl, hle⟩ := hdown
      · exact hover.resolve_right (not_lt.2 hle)
      · simpa only [Overflows, abs_of_nonneg hle] using hover
    have hpos : ¬ v < 0 := fun h => by linarith [units_neg_iff.2 h]
    have hlargest : r = largest false := by
      rw [hr, decide_eq_false hpos]
      obtain ⟨rfl, -⟩ | ⟨rfl, -⟩ := hdown <;> rfl
    rw [hlargest]
    exact isFloor_largest (by linarith)
  | delivered s lo hi hv _ hr _ _ =>
    obtain ⟨rfl, -⟩ | ⟨rfl, hle⟩ := hdown
    · exact hr.isFloor hv (by decide) (.inl rfl)
    · refine hr.isFloor hv (by decide) (or_iff_not_imp_right.2 fun hne => ?_)
      rw [eq_decide_of_signed hv hne, decide_eq_false fun h => by linarith [units_neg_iff.2 h]]
      rfl

theorem FiniteResult.isCeil (hup : (rm = .ru ∧ units v ≤ 65504) ∨ (rm = .rz ∧ units v ≤ 0)) :
    IsCeil (units v) r := by
  cases h with
  | overflow hover hr _ =>
    have hbig : units v ≤ -65536 := by
      obtain ⟨rfl, hle⟩ | ⟨rfl, hle⟩ := hup
      · exact hover.resolve_left (not_lt.2 hle)
      · simpa only [Overflows, abs_of_nonpos hle, le_neg] using hover
    have hneg : v < 0 := units_neg_iff.1 (by linarith)
    have hlargest : r = largest true := by
      rw [hr, decide_eq_true hneg]
      obtain ⟨rfl, -⟩ | ⟨rfl, -⟩ := hup <;> rfl
    rw [hlargest]
    exact isCeil_largest (by linarith)
  | delivered s lo hi hv _ hr _ _ =>
    obtain ⟨rfl, -⟩ | ⟨rfl, hle⟩ := hup
    · exact hr.isCeil hv (by decide) (.inl rfl)
    · refine hr.isCeil hv (by decide) (or_iff_not_imp_right.2 fun hne => ?_)
      have hneg : v < 0 := units_neg_iff.1 (lt_of_le_of_ne hle (mt units_eq_zero.1 hne))
      rw [eq_decide_of_signed hv hne, decide_eq_true hneg]
      rfl

end

/-- Settles O53: a delivered datum is the floor or the ceiling that the mode asks for, and so is the largest datum where
the masked overflow answers it. -/
theorem directedRounding : Obligations.DirectedRounding := by
  intro e neg x y z r f hp hx hy hz h
  obtain ⟨g, hres, -⟩ := fms16_result_of_isFinite hp hx hy hz h
  rw [exactReal_eq_units]
  generalize exactValue neg x y z = v at *
  have hbig (hover : Overflows e.rm (units v)) : r = overflowResult e.rm (decide (v < 0)) := by
    cases hres with
    | overflow _ hr _ => exact hr
    | delivered _ _ _ _ hnot _ _ _ => exact absurd hover hnot
  refine ⟨hres.isFloor, hres.isCeil, fun hrm hlt => ?_, fun hrm hlt => ?_, hres.sign⟩
  · have hneg : v < 0 := units_neg_iff.1 (by linarith)
    rw [hrm] at hbig
    rw [hbig (.inr hlt), decide_eq_true hneg]
    rfl
  · have hpos : ¬ v < 0 := fun h => by linarith [units_neg_iff.2 h]
    rw [hrm] at hbig
    rw [hbig (.inl hlt), decide_eq_false hpos]
    rfl

/-! ## A representable exact real (R173 (5)) -/

theorem magnitude_lt (h : Half) : magnitude h < 2 ^ (expOf h + 10) := by
  have hfrac := fracOf_lt h
  unfold magnitude
  split_ifs with he
  · rw [he]
    exact hfrac
  · obtain ⟨e, he'⟩ : ∃ e, expOf h = e + 1 := ⟨expOf h - 1, by omega⟩
    calc (1024 + fracOf h) * 2 ^ (expOf h - 1) < 2 ^ 11 * 2 ^ (expOf h - 1) :=
          (Nat.mul_lt_mul_right (by positivity)).2 (by omega)
      _ = 2 ^ (expOf h + 10) := by rw [← pow_add, he']; congr 1; omega

theorem two_pow_le_magnitude {h : Half} (he : expOf h ≠ 0) : 2 ^ (expOf h + 9) ≤ magnitude h := by
  rw [magnitude, if_neg he]
  calc 2 ^ (expOf h + 9) = 2 ^ 10 * 2 ^ (expOf h - 1) := by rw [← pow_add]; congr 1; omega
    _ ≤ (1024 + fracOf h) * 2 ^ (expOf h - 1) := Nat.mul_le_mul_right _ (by omega)

theorem magnitude_lt_of_expOf_lt {h r : Half} (he : expOf r < expOf h) : magnitude r < magnitude h :=
  calc magnitude r < 2 ^ (expOf r + 10) := magnitude_lt r
    _ ≤ 2 ^ (expOf h + 9) := Nat.pow_le_pow_right (by decide) (by omega)
    _ ≤ magnitude h := two_pow_le_magnitude (by omega)

/-- The magnitude determines the exponent and the fraction. -/
theorem fields_of_magnitude_eq {h r : Half} (heq : magnitude r = magnitude h) :
    expOf r = expOf h ∧ fracOf r = fracOf h := by
  have hexp : expOf r = expOf h := by
    obtain hlt | hexp | hlt := lt_trichotomy (expOf r) (expOf h)
    · exact absurd heq (magnitude_lt_of_expOf_lt hlt).ne
    · exact hexp
    · exact absurd heq (magnitude_lt_of_expOf_lt hlt).ne'
  refine ⟨hexp, ?_⟩
  rw [magnitude, magnitude, hexp] at heq
  split_ifs at heq
  · exact heq
  · exact Nat.add_left_cancel (Nat.eq_of_mul_eq_mul_right (by positivity) heq)

/-- Only the two zeros have the same value (R150). -/
theorem eq_of_val_eq {h r : Half} (heq : val r = val h) (hne : val h ≠ 0) : r = h := by
  rw [val_eq_signed, ne_eq, units_eq_zero] at hne
  rw [val_eq_signed, val_eq_signed, units_inj] at heq
  have hsign : signOf r = signOf h ∧ scaled r = scaled h := by
    cases hr : signOf r <;> cases hh : signOf h
    all_goals
      simp only [hr, hh, signed, Bool.false_eq_true, reduceCtorEq, if_true, if_false, true_and, false_and] at heq hne ⊢
      omega
  obtain ⟨hs, hscaled⟩ := hsign
  obtain ⟨he, hf⟩ := fields_of_magnitude_eq (Nat.eq_of_mul_eq_mul_right (by decide) hscaled)
  exact eq_of_fields hs he hf

/-- No datum is beyond the threshold of overflow. -/
theorem Overflows.largest_lt_abs {rm : RoundMode} {v : ℚ} (h : Overflows rm v) : 65504 < |v| := by
  cases rm with
  | rn => exact lt_of_lt_of_le (by norm_num) h
  | rz => exact lt_of_lt_of_le (by norm_num) h
  | ru => exact lt_abs.2 (h.imp_right fun hle => by linarith)
  | rd => exact lt_abs.2 (h.imp (fun hle => by linarith) fun hlt => by linarith)

/-- The lower of the two numbers is the exact value where that is representable. -/
theorem Delivered.eq_lo {rm : RoundMode} {s : Bool} {v : ℤ} {lo hi : ℕ} {r h : Half}
    (hr : Delivered rm s v.natAbs r lo hi) (hf : isFinite h = true) (hval : val h = units v) : v.natAbs = lo := by
  have hscaled : scaled h = v.natAbs := by
    rw [val_eq_signed, units_inj] at hval
    cases hs : signOf h
    all_goals
      simp only [hs, signed, Bool.false_eq_true, if_true, if_false] at hval
      omega
  have hlo := hr.rounds.lo_le
  have hhi := hr.rounds.lt_hi
  have hgap := hr.gap h hf
  omega

theorem Delivered.val_of_eq_lo {rm : RoundMode} {s : Bool} {v : ℤ} {lo hi : ℕ} {r : Half}
    (hv : signed s v.natAbs = v) (hr : Delivered rm s v.natAbs r lo hi) (hlo : v.natAbs = lo) : val r = units v := by
  rw [val_eq_signed, hr.sign, hr.rounds.exact_lo hlo, ← hlo, hv]

theorem FiniteResult.eq_of_val {rm : RoundMode} {v : ℤ} {f g : FpFlags} {r h : Half} (hres : FiniteResult rm v f r g)
    (hf : isFinite h = true) (hval : val h = units v) (hne : units v ≠ 0) : r = h ∧ g = f := by
  cases hres with
  | overflow hover _ _ => exact absurd (hval ▸ abs_val_le hf) (not_le.2 hover.largest_lt_abs)
  | delivered s lo hi hv _ hr hexact _ =>
    have hlo := hr.eq_lo hf hval
    exact ⟨eq_of_val_eq ((hr.val_of_eq_lo hv hlo).trans hval.symm) (hval ▸ hne), hexact hlo⟩

/-- Settles O58: a representable exact value is the lower of the two numbers around it, and is delivered exactly. -/
theorem representableIsExact : Obligations.RepresentableIsExact := by
  intro e neg x y z h hp hx hy hz hf hval hne
  rw [exactReal_eq_units] at hval hne
  have hexact (r : Half) (f : FpFlags) (hr : fms16 e neg x y z = .result r f) :
      r = h ∧ (f = {} ∨ f = { de := true }) := by
    obtain ⟨g, hres, hfg⟩ := fms16_result_of_isFinite hp hx hy hz hr
    obtain ⟨rfl, rfl⟩ := hres.eq_of_val hf hval hne
    refine ⟨rfl, hfg.elim (fun hfg => ?_) .inl⟩
    cases hden : anyDen x y z
    · exact .inl (by rw [hfg, hden])
    · exact .inr (by rw [hfg, hden])
  refine ⟨hexact, fun hall => ?_⟩
  obtain ⟨r, f, hr⟩ := FmsOutcome.delivers_iff.1 (fms16_delivers (.inl hall) neg x y z)
  exact ⟨f, (hexact r f hr).1 ▸ hr⟩

end Sys2Proof.Machine
end

section
/-! The flags of FMS16 for finite operands in rational numbers (R159, R163 to R166, R209). -/

namespace Sys2Proof.Machine

/-! ## The flags of a trap (R163 to R165) -/

section
variable {rm : RoundMode} {m : FpMasks} {s inexact : Bool} {mag e n : ℕ} {f g : FpFlags}

theorem overflow_trap (h : overflow rm m s inexact f = .trap g) :
    (m.om = false → g.pe = inexact) ∧ (m.om = true → g.pe = true ∧ m.pm = false) := by
  unfold overflow at h
  split_ifs at h with hom hpm
  · cases h
    exact ⟨fun _ => rfl, fun h => by simp [h] at hom⟩
  · cases h
    exact ⟨fun h => by simp [h] at hom, fun _ => ⟨rfl, by simpa using hpm⟩⟩

theorem tiny_trap (h : tiny rm m false s mag f = .trap g) :
    (m.um = false → g.pe = (roundInt mag (2 ^ 24) s rm).2) ∧ (m.um = true → g.pe = true ∧ m.pm = false) := by
  unfold tiny at h
  generalize roundInt mag (2 ^ 24) s rm = p at *
  obtain ⟨nd, inexact⟩ := p
  simp only [Bool.false_eq_true, if_false] at h
  split_ifs at h with hum hinexact hpm
  · cases h
    exact ⟨fun _ => rfl, fun h => by simp [h] at hum⟩
  · cases h
    exact ⟨fun h => by simp [h] at hum, fun _ => ⟨rfl, by simpa using hpm⟩⟩

theorem normal_trap (h : normal m s inexact e n f = .trap g) : g.pe = true ∧ m.pm = false := by
  unfold normal at h
  split_ifs at h with hinexact hpm
  cases h
  exact ⟨rfl, by simpa using hpm⟩

end

/-- The statement on PE of a trap: `inexact` is that of the rounding with unbounded exponent, `inexactTiny` that of the
denormalised rounding. -/
def TrapPrecision (m : FpMasks) (inexact inexactTiny : Prop) (g : FpFlags) : Prop :=
  (g.oe = true → m.om = false → (g.pe = true ↔ inexact)) ∧
    (g.ue = true → m.um = false → (g.pe = true ↔ inexactTiny)) ∧
    ((g.oe = true → m.om = true) → (g.ue = true → m.um = true) → g.pe = true ∧ m.pm = false)

/-- When step 6 signals each flag: `mag` × 2^−48 is the exact magnitude and `de` the flag of step 3. -/
structure RoundFlags (rm : RoundMode) (m : FpMasks) (s : Bool) (mag : ℕ) (de : Bool) (o : FmsOutcome) : Prop where
  ie : o.flags.ie = false
  de : o.flags.de = de
  oe : o.flags.oe = true ↔ ReachesPow rm s 64 mag
  ue : o.flags.ue = true ↔ ¬ ReachesPow rm s 34 mag ∧ (m.um = false ∨ ¬ 2 ^ 24 ∣ mag)
  trap : ∀ g, o = .trap g → TrapPrecision m (¬ 2 ^ mag.log2 ∣ mag * 2 ^ 10) (¬ 2 ^ 24 ∣ mag) g

section
variable {rm : RoundMode} {m : FpMasks} {s : Bool} {mag : ℕ} {de : Bool}

theorem overflow_roundFlags (hover : ReachesPow rm s 64 mag) :
    RoundFlags rm m s mag de (overflow rm m s (significand rm s mag).2 { de := de }) := by
  have hnormal : ReachesPow rm s 34 mag := by
    by_contra h
    exact not_reachesPow_of_lt (by decide) h hover
  obtain ⟨pe, hflags⟩ := overflow_flags rm m s (significand rm s mag).2 { de := de }
  refine ⟨by rw [hflags], by rw [hflags], by simp [hflags, hover], by simp [hflags, hnormal], fun g hg => ?_⟩
  obtain ⟨hunmasked, hmasked⟩ := overflow_trap hg
  rw [hg, FmsOutcome.flags] at hflags
  refine ⟨fun _ hom => ?_, fun hue => ?_, fun hom _ => hmasked (hom (by rw [hflags]))⟩
  · rw [hunmasked hom]
    exact roundInt_inexact_iff
  · rw [hflags] at hue
    cases hue

theorem normal_roundFlags (hover : ¬ ReachesPow rm s 64 mag) (hnormal : ReachesPow rm s 34 mag) (inexact : Bool)
    (e n : ℕ) : RoundFlags rm m s mag de (normal m s inexact e n { de := de }) := by
  obtain ⟨pe, hflags⟩ := normal_flags m s inexact e n { de := de }
  refine ⟨by rw [hflags], by rw [hflags], by simp [hflags, hover], by simp [hflags, hnormal], fun g hg => ?_⟩
  have htrap := normal_trap hg
  rw [hg, FmsOutcome.flags] at hflags
  refine ⟨fun hoe => ?_, fun hue => ?_, fun _ _ => htrap⟩
  · rw [hflags] at hoe
    cases hoe
  · rw [hflags] at hue
    cases hue

theorem tiny_roundFlags (htiny : ¬ ReachesPow rm s 34 mag) :
    RoundFlags rm m s mag de (tiny rm m false s mag { de := de }) := by
  have hover : ¬ ReachesPow rm s 64 mag := not_reachesPow_of_lt (by decide) htiny
  have hue : (!m.um || (roundInt mag (2 ^ 24) s rm).2) = true ↔ m.um = false ∨ ¬ 2 ^ 24 ∣ mag := by
    rw [Bool.or_eq_true, roundInt_inexact_iff, Bool.not_eq_true']
  obtain ⟨ue, pe, hflags, hvalue⟩ := tiny_flags rm m false s mag { de := de }
  rw [hvalue rfl, Bool.false_or] at hflags
  refine ⟨by rw [hflags], by rw [hflags], by simp [hflags, hover], ?_, fun g hg => ?_⟩
  · rw [hflags, hue]
    exact (and_iff_right htiny).symm
  · obtain ⟨hunmasked, hmasked⟩ := tiny_trap hg
    rw [hg, FmsOutcome.flags] at hflags
    refine ⟨fun hoe => ?_, fun _ hum => ?_, fun _ hum => hmasked ?_⟩
    · rw [hflags] at hoe
      cases hoe
    · rw [hunmasked hum]
      exact roundInt_inexact_iff
    · by_contra hne
      exact hne (hum (by rw [hflags]; exact hue.2 (.inl (by simpa using hne))))

theorem roundFP_roundFlags (hmag : mag ≠ 0) : RoundFlags rm m s mag de (roundFP rm m false s mag { de := de }) := by
  by_cases hover : ReachesPow rm s 64 mag
  · rw [roundFP_of_overflow hmag hover]
    exact overflow_roundFlags hover
  by_cases hnormal : ReachesPow rm s 34 mag
  · rw [roundFP_of_normal hmag hover hnormal]
    exact normal_roundFlags hover hnormal ..
  · rw [roundFP_of_tiny hmag hnormal]
    exact tiny_roundFlags hnormal

end

/-! ## The conditions in rational numbers -/

/-- The threshold of R164 in rational numbers and in units. -/
theorem isTiny_iff (rm : RoundMode) (v : ℤ) :
    IsTiny rm (units v) ↔ ¬ ReachesPow rm (decide (v < 0)) 34 v.natAbs := by
  have h14 : (1 / 2 ^ 14 : ℚ) = units (2 ^ 34) := by norm_num [units]
  have h25 : (1 / 2 ^ 25 : ℚ) = units (2 ^ 23) := by norm_num [units]
  have h26 : (1 / 2 ^ 26 : ℚ) = units (2 ^ 22) := by norm_num [units]
  cases rm
  all_goals
    simp only [IsTiny, ReachesPow, roundsAway, h14, h25, h26, units_sub, neg_units, abs_units, units_le_units,
      units_lt_units, Int.abs_eq_natAbs, ne_eq, reduceCtorEq, not_true_eq_false, not_false_eq_true, true_and,
      false_and, false_or, or_false, decide_eq_true_eq, decide_eq_false_iff_not,
      Bool.not_eq_true', Bool.not_eq_false', Bool.false_eq_true]
    omega

theorem isDenormalMultiple_iff (v : ℤ) : IsDenormalMultiple (units v) ↔ 2 ^ 24 ∣ v.natAbs := by
  have hunits (n : ℤ) : (n : ℚ) / 2 ^ 24 = units (n * 2 ^ 24) := by simp only [units]; push_cast; ring
  rw [← Int.natCast_dvd]
  constructor
  · rintro ⟨n, hn⟩
    rw [hunits, units_inj] at hn
    exact ⟨n, by rw [hn, mul_comm]; rfl⟩
  · rintro ⟨n, hn⟩
    exact ⟨n, by rw [hunits, units_inj, hn, mul_comm]; rfl⟩

theorem abs_signed (s : Bool) (n : ℕ) : |signed s n| = n := by cases s <;> simp [signed]

theorem signed_mul (s : Bool) (a b : ℕ) : signed s (a * b) = signed s a * b := by cases s <;> simp [signed]

/-- A multiple of a power of two by less than 2^11 is a multiple of the spacing of its binade. -/
theorem two_pow_log2_dvd {mag c p : ℕ} (hmag : mag ≠ 0) (hc : c < 2 ^ 11) (h : mag = c * 2 ^ p) :
    2 ^ mag.log2 ∣ mag * 2 ^ 10 := by
  have hlt : 2 ^ mag.log2 < 2 ^ (11 + p) :=
    calc 2 ^ mag.log2 ≤ c * 2 ^ p := h ▸ Nat.log2_self_le hmag
      _ < 2 ^ 11 * 2 ^ p := (Nat.mul_lt_mul_right (by positivity)).2 hc
      _ = 2 ^ (11 + p) := (pow_add ..).symm
  have hlog := (Nat.pow_lt_pow_iff_right (by decide)).1 hlt
  have hdvd : 2 ^ mag.log2 ∣ c * 2 ^ (p + 10) := Dvd.dvd.mul_left (pow_dvd_pow 2 (by omega)) c
  rwa [pow_add, ← mul_assoc, ← h] at hdvd

/-- A fraction of a power of two by less than 2^11 is small, so that the spacing of its binade is below 1. -/
theorem two_pow_log2_dvd_of_mul {mag c p : ℕ} (hmag : mag ≠ 0) (hc : c < 2 ^ 11) (h : mag * 2 ^ p = c) :
    2 ^ mag.log2 ∣ mag * 2 ^ 10 := by
  have hlt : 2 ^ mag.log2 < 2 ^ 11 :=
    calc 2 ^ mag.log2 ≤ mag := Nat.log2_self_le hmag
      _ ≤ mag * 2 ^ p := Nat.le_mul_of_pos_right _ (by positivity)
      _ < 2 ^ 11 := h ▸ hc
  have hlog := (Nat.pow_lt_pow_iff_right (by decide)).1 hlt
  exact Dvd.dvd.mul_left (pow_dvd_pow 2 (by omega)) mag

/-- The exact values of 11 significant bits are those that the spacing of their binade divides (R162). -/
theorem fitsElevenBits_iff {v : ℤ} (hv : v ≠ 0) :
    FitsElevenBits (units v) ↔ 2 ^ v.natAbs.log2 ∣ v.natAbs * 2 ^ 10 := by
  have hmag := Int.natAbs_ne_zero.2 hv
  constructor
  · rintro ⟨n, q, hn, hvalue⟩
    have hc : n.natAbs < 2 ^ 11 := by
      rw [Int.abs_eq_natAbs] at hn
      omega
    have hscaled : (v : ℚ) = n * 2 ^ (q + 48) := by
      rw [zpow_add₀ (by norm_num), ← mul_assoc, ← hvalue, units]
      norm_num
    have habs : (v.natAbs : ℚ) = n.natAbs * 2 ^ (q + 48) := by
      rw [Nat.cast_natAbs, Nat.cast_natAbs, Int.cast_abs, Int.cast_abs, hscaled, abs_mul,
        abs_of_pos (by positivity : (0 : ℚ) < 2 ^ (q + 48))]
    obtain ⟨p, hp | hp⟩ := (q + 48).eq_nat_or_neg
    · rw [hp, zpow_natCast] at habs
      exact two_pow_log2_dvd hmag hc (by exact_mod_cast habs)
    · rw [hp, zpow_neg, zpow_natCast, eq_mul_inv_iff_mul_eq₀ (by positivity)] at habs
      exact two_pow_log2_dvd_of_mul hmag hc (by exact_mod_cast habs)
  · rintro ⟨c, hc⟩
    have hlt : c < 2 ^ 11 := by
      have hupper := lt_two_mul_two_pow_log2 v.natAbs
      have hprod : 2 ^ v.natAbs.log2 * c < 2 ^ v.natAbs.log2 * 2 ^ 11 := by omega
      exact lt_of_mul_lt_mul_left' hprod
    refine ⟨signed (decide (v < 0)) c, v.natAbs.log2 - 58, by rw [abs_signed]; exact_mod_cast hlt, ?_⟩
    have hint : v * 2 ^ 10 = signed (decide (v < 0)) c * 2 ^ v.natAbs.log2 := by
      have hsigned := congrArg (signed (decide (v < 0))) hc
      rw [mul_comm _ c, signed_mul, signed_mul, signed_natAbs] at hsigned
      exact_mod_cast hsigned
    have hrat : (v : ℚ) * 2 ^ 10 = signed (decide (v < 0)) c * 2 ^ v.natAbs.log2 := by exact_mod_cast hint
    rw [zpow_sub₀ (by norm_num), zpow_natCast, ← mul_div_assoc, ← hrat, units]
    norm_num
    ring

/-! ## PE of a result -/

theorem FiniteResult.pe_iff {rm : RoundMode} {v : ℤ} {f g : FpFlags} {r : Half} (h : FiniteResult rm v f r g)
    (hf : f.pe = false) : g.pe = true ↔ ¬(isFinite r = true ∧ val r = units v) := by
  cases h with
  | overflow hover _ hpe =>
    refine iff_of_true hpe ?_
    rintro ⟨hfin, hval⟩
    exact absurd (hval ▸ abs_val_le hfin) (not_le.2 hover.largest_lt_abs)
  | delivered s lo hi hv _ hr hexact hinexact =>
    by_cases hlo : v.natAbs = lo
    · rw [hexact hlo, hf]
      exact iff_of_false (by decide) (not_not_intro ⟨hr.finite, hr.val_of_eq_lo hv hlo⟩)
    · exact iff_of_true (hinexact hlo) fun ⟨hfin, hval⟩ => hlo (hr.eq_lo hfin hval)

/-- Settles O54: step 3 traps, or the flags are those of step 6. -/
theorem flagsOfFiniteOperands : Obligations.FlagsOfFiniteOperands := by
  intro e neg x y z hp hsae hx hy hz
  refine ⟨fms16_of_unmasked_den (fmsSteps_of_isFinite hx hy hz hp) hsae, fun hne hmasked => ?_⟩
  have hv : exactValue neg x y z ≠ 0 := mt exactReal_eq_zero_iff.2 hne
  have hround : fms16 e neg x y z = roundFP e.rm e.masks false (decide (exactValue neg x y z < 0))
      (exactValue neg x y z).natAbs { de := anyDen x y z } := by
    rw [fms16_of_not_sae hsae, fmsSteps_of_isFinite hx hy hz hp,
      finiteSteps_of_isFinite hx hy hz (anyDen_masked_iff.2 hmasked), if_neg hv]
  have hresult (r : Half) (f : FpFlags) (h : fms16 e neg x y z = .result r f) :
      FiniteResult e.rm (exactValue neg x y z) { de := anyDen x y z } r f := by
    rw [fms16_of_not_sae hsae] at h
    exact fmsSteps_result_of_isFinite hp hx hy hz h
  obtain ⟨hie, hde, hoe, hue, htrap⟩ := hround ▸ roundFP_roundFlags (rm := e.rm) (m := e.masks)
    (s := decide (exactValue neg x y z < 0)) (de := anyDen x y z) (Int.natAbs_ne_zero.2 hv)
  rw [exactReal_eq_units]
  refine ⟨hie, hde, hoe.trans (overflows_iff ..).symm, ?_, fun r f h => (hresult r f h).pe_iff rfl, ?_⟩
  · rw [hue, isTiny_iff, isDenormalMultiple_iff]
  · rw [fitsElevenBits_iff hv, isDenormalMultiple_iff]
    exact htrap

end Sys2Proof.Machine
end

section
/-! A fetch that fails inside an instruction (R205 (b), R206, R210 step 1): the decoder reads the bytes in address
order, so on a reader that fails behind the bytes of a list it ends as on the list alone, with the reader's error for
want of bytes. -/

namespace Sys2Proof
open Machine

/-! ## A reader that fails behind given bytes -/

/-- `x` answers what `y` answers, and fails with `e` where `y` has no answer. -/
def EndsAs {ε α : Type} (e : ε) (x : Except ε α) (y : Except Unit α) : Prop := x = y.mapError fun _ => e

section
variable {ε α β : Type} {e : ε}

theorem EndsAs.ok (a : α) : EndsAs e (.ok a) (.ok a) := rfl

theorem EndsAs.ite {c : Prop} [Decidable c] {x x' : Except ε α} {y y' : Except Unit α} (h : EndsAs e x y)
    (h' : EndsAs e x' y') : EndsAs e (if c then x else x') (if c then y else y') := by
  split_ifs
  · exact h
  · exact h'

theorem EndsAs.eq_ok {x : Except ε α} {a : α} (h : EndsAs e x (.ok a)) : x = .ok a := h

theorem EndsAs.eq_error {x : Except ε α} {u : Unit} (h : EndsAs e x (.error u)) : x = .error e := h

theorem EndsAs.bind {x : Except ε α} {y : Except Unit α} {f : α → Except ε β} {g : α → Except Unit β}
    (hxy : EndsAs e x y) (hfg : ∀ a, y = .ok a → EndsAs e (f a) (g a)) : EndsAs e (x >>= f) (y >>= g) := by
  cases y with
  | error u =>
    rw [hxy.eq_error]
    rfl
  | ok a =>
    rw [hxy.eq_ok]
    exact hfg a rfl

end

theorem lt_length_of_readList {l : List Byte} {k : Nat} {b : Byte} (h : readList l k = .ok b) : k < l.length :=
  Nat.lt_of_not_le fun hle => by simp [readList, hle] at h

section
variable {ε : Type} {rd : Nat → Except ε Byte} {m : Mode} {fuel k : Nat}

/-- A scan, whether or not it met a forbidden byte, has read the byte it stopped at. -/
theorem scanPrefixes_byte {sc : PrefixScan} (h : scanPrefixes m rd fuel k = .ok (some sc)) :
    rd sc.pos = .ok sc.byte := by
  induction fuel generalizing k sc with
  | zero => cases h
  | succ fuel ih =>
    rw [scanPrefixes_succ] at h
    obtain ⟨b, hb, h⟩ := except_bind_eq_ok.1 h
    split at h
    · obtain ⟨sc', hsc', h⟩ := except_bind_eq_ok.1 h
      cases sc' with
      | none => cases h
      | some sc' =>
        cases h
        have hbyte : rd sc'.pos = .ok sc'.byte := ih hsc'
        exact hbyte
    · cases h
      exact hb

end

section
variable {ε β : Type} {e : ε} {rd : Nat → Except ε Byte} {l : List Byte} {k : Nat}
  (h : ∀ k ≤ l.length, EndsAs e (rd k) (readList l k))
include h

/-- One read: what is done with the byte matters only if there is one. -/
theorem EndsAs.read {f : Byte → Except ε β} {g : Byte → Except Unit β} (hk : k ≤ l.length)
    (hfg : ∀ b, k + 1 ≤ l.length → EndsAs e (f b) (g b)) : EndsAs e (rd k >>= f) (readList l k >>= g) :=
  (h k hk).bind fun b hb => hfg b (lt_length_of_readList hb)

theorem scanPrefixes_endsAs (m : Mode) (fuel : Nat) (hk : k ≤ l.length) :
    EndsAs e (scanPrefixes m rd fuel k) (scanPrefixes m (readList l) fuel k) := by
  induction fuel generalizing k with
  | zero => exact .ok none
  | succ fuel ih =>
    rw [scanPrefixes_succ, scanPrefixes_succ]
    exact .read h hk fun b hk => .ite ((ih hk).bind fun sc _ => .ok _) (.ok _)

theorem readDisp32_endsAs (hk : k ≤ l.length) : EndsAs e (readDisp32 rd k) (readDisp32 (readList l) k) :=
  .read h hk fun _ hk => .read h hk fun _ hk => .read h hk fun _ hk => .read h hk fun _ _ => .ok _

theorem readDisp_endsAs (mod : BitVec 2) (hk : k ≤ l.length) :
    EndsAs e (readDisp rd mod k) (readDisp (readList l) mod k) :=
  .ite (.read h hk fun _ _ => .ok _) (.ite ((readDisp32_endsAs h hk).bind fun _ _ => .ok _) (.ok _))

theorem readMemOperand_endsAs (mod : BitVec 2) (rm : BitVec 3) (x b : BitVec 1) (hk : k ≤ l.length) :
    EndsAs e (readMemOperand rd mod rm x b k) (readMemOperand (readList l) mod rm x b k) :=
  .ite (.read h hk fun _ hk => .ite ((readDisp32_endsAs h hk).bind fun _ _ => .ok _)
      ((readDisp_endsAs h _ hk).bind fun _ _ => .ok _))
    (.ite ((readDisp32_endsAs h hk).bind fun _ _ => .ok _) ((readDisp_endsAs h _ hk).bind fun _ _ => .ok _))

theorem decodeOperand3_endsAs {sc : PrefixScan} (hd : EvexHead) (mk : Operands → Instr)
    (hk : sc.pos + 6 ≤ l.length) :
    EndsAs e (decodeOperand3 rd sc hd mk) (decodeOperand3 (readList l) sc hd mk) :=
  .ite (.ok _) ((readMemOperand_endsAs h _ _ _ _ hk).bind fun _ _ => .ok _)

theorem decodeEvex_endsAs (m : Mode) {sc : PrefixScan} (hk : sc.pos + 1 ≤ l.length) :
    EndsAs e (decodeEvex m rd sc) (decodeEvex m (readList l) sc) := by
  refine .ite (.ok _) <| .ite (.ok _) <| .ite (.ok _) <| .read h hk fun p0 hk => .ite (.ok _) <| .ite (.ok _) <|
    .read h hk fun p1 hk => .ite (.ok _) <| .ite (.ok _) <| .ite (.ok _) <|
    .read h hk fun p2 hk => .ite (.ok _) <| .read h hk fun opc hk => ?_
  cases opcodeTable.lookup opc with
  | none => exact .ok _
  | some mk => exact .read h hk fun modrm hk => decodeOperand3_endsAs h _ mk hk

/-- The decoder reads no byte behind one that it cannot read (R96, R210 step 1). -/
theorem decodeFrom_endsAs (m : Mode) : EndsAs e (decodeFrom m rd) (decodeFrom m (readList l)) := by
  have hscan := scanPrefixes_endsAs h m prefixFuel (Nat.zero_le _)
  unfold decodeFrom
  cases hs : scanPrefixes m (readList l) prefixFuel 0 with
  | error u =>
    rw [hs] at hscan
    rw [hscan.eq_error]
    rfl
  | ok sc =>
    rw [hs] at hscan
    rw [hscan.eq_ok]
    cases sc with
    | none => exact .ok _
    | some sc => exact decodeEvex_endsAs h m (lt_length_of_readList (scanPrefixes_byte hs))

end

/-- A proper beginning of an encoding has too few bytes for the decoder. -/
theorem decodeFrom_take_encode {m : Mode} {i : Instr} {n : Nat} (hwf : i.wf m = true) (hn : n < (encode i).length) :
    decodeFrom m (readList ((encode i).take n)) = .error () := by
  cases hd : decodeFrom m (readList ((encode i).take n)) with
  | error u => rfl
  | ok d =>
    have hfollows := decodeFrom_follows (rd' := readList (encode i)) (readList_follows fun k hk => by
      have hlt : k < (encode i).length := by simp at hk; omega
      simp [readList, hlt]) m d hd
    rw [decodeFrom_encode hwf readsAt_readList_self] at hfollows
    cases hfollows
    obtain ⟨-, hbytes⟩ := decodeFrom_instr hd
    have hlen := (readsAt_readList_zero.1 hbytes).length_le
    rw [List.length_take] at hlen
    omega

/-- R210 step 1: where the fetch of a byte of a well-formed instruction fails, the bytes before it being its own, the
decoder fails as that fetch does. -/
theorem decodeFrom_of_failing_byte {ε : Type} {rd : Nat → Except ε Byte} {e : ε} {m : Mode} {i : Instr} {n : Nat}
    (hwf : i.wf m = true) (hn : n < (encode i).length)
    (hbytes : ∀ (k : Nat) (h : k < (encode i).length), k < n → rd k = .ok (encode i)[k]) (he : rd n = .error e) :
    decodeFrom m rd = .error e := by
  have hends : ∀ k ≤ ((encode i).take n).length, EndsAs e (rd k) (readList ((encode i).take n) k) := by
    intro k hk
    rw [List.length_take_of_le hn.le] at hk
    obtain hlt | rfl := Nat.lt_or_eq_of_le hk
    · have hki := hlt.trans hn
      simp [EndsAs, readList, hbytes k hki hlt, hlt, hki, Except.mapError]
    · simp [EndsAs, readList, he, Except.mapError]
  have h := decodeFrom_endsAs hends m
  rwa [decodeFrom_take_encode hwf hn] at h

end Sys2Proof

namespace Sys2Proof.Machine

/-! ## The step at a failing fetch (R205 (b), R206) -/

theorem step_of_fetch_error {s : State} {e : Exception} (ha : s.admissible = true)
    (hd : decodeFrom s.cfg.mode s.fetchByte = .error e) : step s = .fault (e.toFault s) := by
  simp [step, fetchAndRun, ha, hd]

theorem State.fetchByte_of_not_canonical {s : State} {n : Nat}
    (h : s.canonicalAt (s.rip + BitVec.ofNat 64 n) = false) : s.fetchByte n = .error .gp := by
  simp [State.fetchByte, h]

theorem State.fetchByte_of_refused {s : State} {n : Nat} {e : Exception}
    (hc : s.canonicalAt (s.rip + BitVec.ofNat 64 n) = true)
    (ht : s.translate (s.rip + BitVec.ofNat 64 n) .fetch = some e) : s.fetchByte n = .error e := by
  simp [State.fetchByte, hc, ht]

/-- R206: the address that `Translate` answers is the one it was asked for. -/
theorem State.translate_pf_address {s : State} {la a : Addr} {kind : AccessKind} {code : BitVec 32}
    (h : s.translate la kind = some (.pf code a)) : a = la := by
  obtain ⟨r, -, -, -, -, hpf⟩ := State.translate_some h
  cases hpf
  rfl

/-- Settles O9: the decoder fails as the fetch of the byte does, and so does the step. -/
theorem fetchFaultsAtTheFirstFailingByte : Obligations.FetchFaultsAtTheFirstFailingByte := by
  intro s i n ha hwf hn hbytes
  have hstep {e : Exception} (he : s.fetchByte n = .error e) : step s = .fault (e.toFault s) :=
    step_of_fetch_error ha (decodeFrom_of_failing_byte hwf hn hbytes he)
  exact ⟨fun hc => hstep (State.fetchByte_of_not_canonical hc), fun code a hc ht =>
    ⟨State.translate_pf_address ht, hstep (State.fetchByte_of_refused hc ht)⟩⟩

end Sys2Proof.Machine
end

section
/-! The exceptions an instruction raises (R200 to R211): what each can come from, in the order of R210, what the access
of a memory operand raises, and what a fault leaves of the state. -/

namespace Sys2Proof.Machine

/-! ## Canonical addresses (R59) -/

/-- The bits of an address from `n` on are all `b` where they fill the address that they are shifted down to. -/
theorem sshiftRight_eq_fill {a : Addr} {n : Nat} (hn : n < 64) (b : Bool) :
    a.sshiftRight n = BitVec.fill 64 b ↔ a.extractLsb' n (64 - n) = BitVec.fill (64 - n) b := by
  constructor
  · intro h
    apply BitVec.eq_of_getLsbD_eq
    intro i hi
    have hbit := congrArg (BitVec.getLsbD · i) h
    simp only [BitVec.getLsbD_sshiftRight, BitVec.getLsbD_fill, show n + i < 64 by omega, if_true] at hbit
    simpa [BitVec.getLsbD_extractLsb', BitVec.getLsbD_fill, hi, show i < 64 by omega,
      show ¬ 64 ≤ i by omega] using hbit
  · intro h
    have hbit (j : Nat) (hj : n + j < 64) : a.getLsbD (n + j) = b := by
      have := congrArg (BitVec.getLsbD · j) h
      simpa [BitVec.getLsbD_fill, show j < 64 - n by omega] using this
    apply BitVec.eq_of_getLsbD_eq
    intro i hi
    rw [BitVec.getLsbD_sshiftRight, BitVec.getLsbD_fill, BitVec.msb_eq_getLsbD_last]
    have hmsb : a.getLsbD (64 - 1) = b := by
      have := hbit (63 - n) (by omega)
      rwa [show n + (63 - n) = 64 - 1 by omega] at this
    rw [hmsb]
    split_ifs with hlt
    · simp only [hbit i hlt, hi, decide_true, decide_eq_false (Nat.not_le.2 hi), Bool.not_false, Bool.true_and,
        Bool.and_true]
    · simp [hi]

theorem canonical_iff {v : VaBits} {a : Addr} : canonical v a = true ↔
    a.extractLsb' (v.toNat - 1) (64 - (v.toNat - 1)) = 0 ∨
      a.extractLsb' (v.toNat - 1) (64 - (v.toNat - 1)) = BitVec.allOnes _ := by
  have hv : v.toNat - 1 < 64 := by cases v <;> decide
  have hzero := sshiftRight_eq_fill (a := a) hv false
  have hones := sshiftRight_eq_fill (a := a) hv true
  rw [BitVec.fill_false, BitVec.fill_false] at hzero
  rw [BitVec.fill_true, BitVec.fill_true] at hones
  simp only [canonical, Bool.or_eq_true, beq_iff_eq]
  exact or_congr hzero hones

theorem State.canonicalAt_mode64 {s : State} (h : s.cfg.mode = .mode64) (a : Addr) :
    s.canonicalAt a = canonical s.cfg.vaBits a := by
  simp [State.canonicalAt, h]

theorem State.canonicalAt_mode32 {s : State} (h : s.cfg.mode = .mode32) (a : Addr) : s.canonicalAt a = true := by
  simp [State.canonicalAt, h]

/-! ## Translation (R58) -/

section
variable {s : State} {la : Addr} {kind : AccessKind}

theorem State.translate_none (h : ∀ q ∈ s.cfg.pageFaults, q.kind = kind → ¬(q.first ≤ la ∧ la ≤ q.last)) :
    s.translate la kind = none := by
  have hfind : (s.cfg.pageFaults.find? fun r => r.kind == kind && r.first ≤ la && la ≤ r.last) = none := by
    rw [List.find?_eq_none]
    intro q hq
    simpa using h q hq
  rw [State.translate, hfind]

/-- The first range that holds the address answers (log 3). -/
theorem State.translate_first {l l' : List FaultRange} {r : FaultRange} (hl : s.cfg.pageFaults = l ++ r :: l')
    (hfirst : ∀ q ∈ l, q.kind = kind → ¬(q.first ≤ la ∧ la ≤ q.last)) (hk : r.kind = kind)
    (hge : r.first ≤ la) (hle : la ≤ r.last) : s.translate la kind = some (.pf r.code la) := by
  have hfind : (s.cfg.pageFaults.find? fun r => r.kind == kind && r.first ≤ la && la ≤ r.last) = some r := by
    rw [List.find?_eq_some_iff_append]
    refine ⟨by simp [hk, hge, hle], l, l', hl, fun q hq => ?_⟩
    simpa [imp_iff_not_or, or_assoc] using hfirst q hq
  rw [State.translate, hfind]

end

/-! ## What the checks of an access raise (R205 to R207, R210) -/

section
variable {s : State} {seg : Segment} {la : Addr} {e p : Exception}

theorem State.alignFault_some :
    s.alignFault la = some e ↔ e = .ac ∧ s.acActive = true ∧ la.toNat % 2 = 1 := by
  have hodd : la.getLsbD 0 = decide (la.toNat % 2 = 1) := by
    rw [BitVec.getLsbD, Nat.testBit_zero]
  rw [State.alignFault, hodd]
  cases s.acActive <;> simp [and_comm, eq_comm]

theorem State.pageFault16_low (h : s.translate la .read = some p) : s.pageFault16 la = some p := by
  simp [State.pageFault16, h]

theorem State.pageFault16_high (h : s.translate la .read = none) : s.pageFault16 la = s.translate (la + 1) .read := by
  simp [State.pageFault16, h]

theorem State.pageFault16_none :
    s.pageFault16 la = none ↔ s.translate la .read = none ∧ s.translate (la + 1) .read = none := by
  cases h : s.translate la .read with
  | some q => simp [State.pageFault16_low h]
  | none => simp [State.pageFault16_high h]

theorem State.pageFault16_some (h : s.pageFault16 la = some p) : ∃ code a, p = .pf code a := by
  cases hlow : s.translate la .read with
  | some q =>
    obtain ⟨r, -, -, -, -, hq⟩ := State.translate_some hlow
    rw [State.pageFault16_low hlow] at h
    cases h
    exact ⟨_, _, hq⟩
  | none =>
    rw [State.pageFault16_high hlow] at h
    obtain ⟨r, -, -, -, -, hp⟩ := State.translate_some h
    exact ⟨_, _, hp⟩

theorem State.checkM16_of_not_canonical (h : s.canonicalAt la = false ∨ s.canonicalAt (la + 1) = false) :
    s.checkM16 seg la = some (if seg = .ss then .ss else .gp) := by
  obtain h | h := h <;> rw [State.checkM16, h] <;> simp

section
variable (hc : s.canonicalAt la = true) (hc' : s.canonicalAt (la + 1) = true)
include hc hc'

theorem State.checkM16_align (ha : s.alignFault la = some e) (hp : s.pageFault16 la = none) :
    s.checkM16 seg la = some e := by
  rw [State.checkM16, hc, hc', ha, hp]
  rfl

theorem State.checkM16_page (ha : s.alignFault la = none) (hp : s.pageFault16 la = some p) :
    s.checkM16 seg la = some p := by
  rw [State.checkM16, hc, hc', ha, hp]
  rfl

theorem State.checkM16_align_page (ha : s.alignFault la = some e) (hp : s.pageFault16 la = some p) :
    s.checkM16 seg la = some (if s.acBeforePf then e else p) := by
  rw [State.checkM16, hc, hc', ha, hp]
  rfl

end

/-- Everything that the checks of a 2-byte access can raise. -/
theorem State.checkM16_some (h : s.checkM16 seg la = some e) :
    e = .ss ∨ e = .gp ∨ (e = .ac ∧ s.acActive = true ∧ la.toNat % 2 = 1) ∨ ∃ code a, e = .pf code a := by
  by_cases hnc : s.canonicalAt la = false ∨ s.canonicalAt (la + 1) = false
  · rw [State.checkM16_of_not_canonical hnc] at h
    cases h
    split_ifs
    · exact .inl rfl
    · exact .inr (.inl rfl)
  obtain ⟨hc, hc'⟩ : s.canonicalAt la = true ∧ s.canonicalAt (la + 1) = true := by
    rwa [not_or, Bool.not_eq_false, Bool.not_eq_false] at hnc
  have hfault : s.alignFault la = some e ∨ s.pageFault16 la = some e := by
    cases ha : s.alignFault la with
    | none =>
      cases hp : s.pageFault16 la with
      | none => rw [State.checkM16_none.2 ⟨hc, hc', ha, State.pageFault16_none.1 hp⟩] at h; cases h
      | some p => exact .inr (by rwa [State.checkM16_page hc hc' ha hp] at h)
    | some a =>
      cases hp : s.pageFault16 la with
      | none => exact .inl (by rwa [State.checkM16_align hc hc' ha hp] at h)
      | some p =>
        rw [State.checkM16_align_page hc hc' ha hp] at h
        cases hb : s.acBeforePf with
        | true => exact .inl (by simpa [hb] using h)
        | false => exact .inr (by simpa [hb] using h)
  obtain ha | hp := hfault
  · exact .inr (.inr (.inl (State.alignFault_some.1 ha)))
  · exact .inr (.inr (.inr (State.pageFault16_some hp)))

/-- A fetch raises #GP or #PF alone (R205 (b), R206). -/
theorem State.fetchByte_error {n : Nat} (h : s.fetchByte n = .error e) : e = .gp ∨ ∃ code a, e = .pf code a := by
  cases hc : s.canonicalAt (s.rip + BitVec.ofNat 64 n) with
  | false =>
    rw [State.fetchByte_of_not_canonical hc] at h
    cases h
    exact .inl rfl
  | true =>
    cases ht : s.translate (s.rip + BitVec.ofNat 64 n) .fetch with
    | none =>
      rw [State.fetchByte_ok.2 ⟨hc, ht, rfl⟩] at h
      cases h
    | some p =>
      rw [State.fetchByte_of_refused hc ht] at h
      cases h
      obtain ⟨r, -, -, -, -, hp⟩ := State.translate_some ht
      exact .inr ⟨_, _, hp⟩

end

/-! ## What raises which exception (R202 to R208, R210) -/

section
variable {i : Instr} {s : State}

theorem exec_of_not_usable (h : s.fp16Usable = false) : exec i s = .fault (.ud s) := by
  simp [exec_eq_execFms, execFms, h, Exception.toFault]

theorem exec_of_task_switched (hu : s.fp16Usable = true) (hl : s.lengthUd i.ops.src3 = false)
    (hts : s.cr0TS = true) : exec i s = .fault (.nm s) := by
  simp [exec_eq_execFms, execFms, hu, hl, hts, Exception.toFault]

/-- Enabled and with the mask bit 1, an instruction faults as the access of its memory operand does. -/
theorem exec_of_accessFault {ll : BitVec 2} {m : MemOperand} {e : Exception} (he : s.Enabled)
    (hl : s.lengthUd i.ops.src3 = false) (hm : s.maskBit i.ops.mask = true) (h3 : i.ops.src3 = .mem ll m)
    (hf : s.accessFault i.ops m = some e) : exec i s = .fault (e.toFault s) := by
  obtain ⟨husable, hts⟩ := he
  have hsrc : s.readSrc3 i.ops = .error e := by simp [State.readSrc3, h3, hf]
  simp [exec_eq_execFms, execFms, husable, hts, hl, hm, hsrc]

/-- R166: the arithmetic of an instruction traps for an unmasked flag alone, and not under embedded rounding. -/
theorem State.outcome_trap {b : Half} {f : FpFlags} (h : s.outcome i b = .trap f) :
    (s.fmsEnv i.ops.src3).sae = false ∧ f.Unmasked (mxcsrMasks s.mxcsr) := by
  obtain ⟨x, y, z, hxyz⟩ : ∃ x y z, s.outcome i b = fms16 (s.fmsEnv i.ops.src3) (Instr.neg i) x y z :=
    ⟨_, _, _, outcome_eq_arithmetic i s b⟩
  rw [hxyz] at h
  have htrap := (trapIffUnmasked _ _ _ _ _).1 ⟨f, h⟩
  rwa [h] at htrap

/-- The fault of an unmasked floating-point exception (R208). -/
def State.trapFault (s : State) (f : FpFlags) : Fault :=
  (if s.osxmmexcpt then Exception.xm else .ud).toFault (s.signal f)

@[simp] theorem State.trapFault_final (s : State) (f : FpFlags) : (s.trapFault f).final = s.signal f :=
  Exception.toFault_final ..

@[simp] theorem State.trapFault_exception (s : State) (f : FpFlags) :
    (s.trapFault f).exception = if s.osxmmexcpt then .xm else .ud :=
  Exception.toFault_exception ..

theorem State.trapFault_eq (s : State) (f : FpFlags) :
    s.trapFault f = if s.sys.cr4.getLsbD 10 then .xm (s.signal f) else .ud (s.signal f) :=
  apply_ite (Exception.toFault · (s.signal f)) (s.osxmmexcpt = true) .xm .ud

theorem exec_of_trap {b : Half} {f : FpFlags} (he : s.Enabled) (hl : s.lengthUd i.ops.src3 = false)
    (hm : s.maskBit i.ops.mask = true) (hb : s.readSrc3 i.ops = .ok b) (ho : s.outcome i b = .trap f) :
    exec i s = .fault (s.trapFault f) := by
  rw [exec_of_readSrc3 he hl hm hb, ho]
  rfl

theorem State.readSrc3_error {ops : Operands} {e : Exception} (h : s.readSrc3 ops = .error e) :
    ∃ ll m, ops.src3 = .mem ll m ∧ s.accessFault ops m = some e := by
  cases h3 : ops.src3 with
  | reg s3 rc => simp [State.readSrc3, h3] at h
  | mem ll m =>
    refine ⟨ll, m, rfl, ?_⟩
    cases hf : s.accessFault ops m <;> simp_all [State.readSrc3]

theorem State.maskedOffSrc3_error {ops : Operands} {e : Exception} (h : s.maskedOffSrc3 ops = .error e) :
    ∃ ll m, ops.src3 = .mem ll m ∧ s.accessFault ops m = some e := by
  obtain hok | ⟨ll, m, e', h3, hf, ⟨-, he⟩ | ⟨-, -, he⟩ | ⟨-, -, hok⟩⟩ := s.maskedOffSrc3_cases ops
  · simp [hok] at h
  · cases he ▸ h
    exact ⟨ll, m, h3, hf⟩
  · cases he ▸ h
    exact ⟨ll, m, h3, hf⟩
  · simp [hok] at h

/-- Everything an instruction that faults can have raised: #UD, #NM, the exception of its memory operand, or that of
its arithmetic, in which the mask bit is 1. -/
theorem exec_fault {φ : Fault} (h : exec i s = .fault φ) :
    ((s.lengthUd i.ops.src3 = true ∨ s.fp16Usable = false) ∧ φ = .ud s) ∨ (s.cr0TS = true ∧ φ = .nm s) ∨
      (∃ ll m e, i.ops.src3 = .mem ll m ∧ s.accessFault i.ops m = some e ∧ φ = e.toFault s) ∨
      (s.maskBit i.ops.mask = true ∧ ∃ b f, s.readSrc3 i.ops = .ok b ∧ s.outcome i b = .trap f ∧
        φ = s.trapFault f) := by
  rw [exec_eq_execFms] at h
  unfold execFms at h
  split at h
  next hud => cases h; exact .inl ⟨by simpa using hud, rfl⟩
  split at h
  next hts => cases h; exact .inr (.inl ⟨hts, rfl⟩)
  split at h
  next hm =>
    split at h
    next e he =>
      cases h
      obtain ⟨ll, m, h3, hf⟩ := State.readSrc3_error he
      exact .inr (.inr (.inl ⟨ll, m, e, h3, hf, rfl⟩))
    next b hb =>
      rw [← outcome_eq_arithmetic] at h
      cases ho : s.outcome i b with
      | result r f => rw [ho] at h; cases h
      | trap f =>
        rw [ho] at h
        cases h
        exact .inr (.inr (.inr ⟨hm, b, f, hb, ho, rfl⟩))
  next =>
    split at h
    next e he =>
      cases h
      obtain ⟨ll, m, h3, hf⟩ := State.maskedOffSrc3_error he
      exact .inr (.inr (.inl ⟨ll, m, e, h3, hf, rfl⟩))
    next => cases h

/-- A step that faults has written nothing, unless it is for an unmasked floating-point exception (R208, R211). -/
theorem step_fault {φ : Fault} (h : step s = .fault φ) : φ.final = s ∨ ∃ f, φ = s.trapFault f := by
  unfold step fetchAndRun at h
  split at h
  · cases h
  split at h
  next e _ => cases h; simp
  next => cases h
  next => cases h; simp
  next => cases h; simp
  next i _ =>
    split at h
    · obtain ⟨-, rfl⟩ | ⟨-, rfl⟩ | ⟨ll, m, e, -, -, rfl⟩ | ⟨-, b, f, -, -, rfl⟩ := exec_fault h
      · exact .inl rfl
      · exact .inl rfl
      · exact .inl (e.toFault_final s)
      · exact .inr ⟨f, rfl⟩
    · cases h

end

/-! ## The statements -/

/-- Settles O12: the fault state is the state before, or only flags have been added to it, for #XM or for the #UD in its
place. -/
theorem faultsArePrecise : Obligations.FaultsArePrecise := by
  intro s φ h
  obtain hφ | ⟨f, rfl⟩ := step_fault h
  · rw [hφ]
    exact ⟨fun _ => rfl, fun _ => rfl, fun _ => rfl, fun _ => rfl, rfl, rfl, rfl, rfl, fun _ => id, fun _ _ => rfl⟩
  · rw [State.trapFault_final, State.trapFault_exception]
    refine ⟨fun _ => rfl, fun _ => rfl, fun _ => rfl, fun _ => rfl, rfl, rfl, rfl, orFlags_control _ _,
      fun _ => orFlags_sticky _ _, fun hxm hud => ?_⟩
    cases hx : s.osxmmexcpt with
    | true => simp [hx] at hxm
    | false => simp [hx] at hud

/-- Settles O43: the bits that are to be equal, and the first of the checks of the access. -/
theorem nonCanonicalOperand : Obligations.NonCanonicalOperand := by
  refine ⟨fun a => ⟨canonical_iff, canonical_iff, fun s => ⟨fun hm => State.canonicalAt_mode64 hm a,
    fun hm => State.canonicalAt_mode32 hm a⟩⟩, fun i s ll m he hl hmask h3 hmode hc => ?_⟩
  rw [← State.canonicalAt_mode64 hmode, ← State.canonicalAt_mode64 hmode] at hc
  have hexec := exec_of_accessFault he hl hmask h3 (State.checkM16_of_not_canonical hc)
  constructor
  · intro hseg
    rwa [if_pos hseg] at hexec
  · intro hseg
    rwa [if_neg hseg] at hexec

/-- Settles O44: the first range that holds the address, and the lower byte before the upper. -/
theorem operandPageFault : Obligations.OperandPageFault := by
  refine ⟨fun s la kind => ⟨State.translate_none, fun l r l' => State.translate_first⟩,
    fun i s ll m code a he hl hm h3 hc hc' heven => ?_⟩
  have hexec (hp : s.pageFault16 (s.linearAddress i.ops m) = some (.pf code a)) : exec i s = .fault (.pf code a s) :=
    exec_of_accessFault he hl hm h3 (State.checkM16_page hc hc' (State.alignFault_none.2 heven) hp)
  exact ⟨fun ht => ⟨State.translate_pf_address ht, hexec (State.pageFault16_low ht)⟩,
    fun hlow ht => ⟨State.translate_pf_address ht, hexec ((State.pageFault16_high hlow).trans ht)⟩⟩

/-- Settles O45: of the exceptions an instruction can raise, #AC is that of `alignFault` alone. -/
theorem alignmentCheck : Obligations.AlignmentCheck := by
  intro i s
  refine ⟨by simp [State.acActive, and_assoc], fun ll m he hl hm h3 hac hodd hc hc' hlow hhigh => ?raised,
    fun φ h hφ => ?only, fun n h => ?fetch, rfl⟩
  case raised =>
    exact exec_of_accessFault he hl hm h3 (State.checkM16_align hc hc' (State.alignFault_some.2 ⟨rfl, hac, hodd⟩)
      ((State.pageFault16_high hlow).trans hhigh))
  case only =>
    obtain ⟨-, rfl⟩ | ⟨-, rfl⟩ | ⟨ll, m, e, h3, hf, rfl⟩ | ⟨-, b, f, -, -, rfl⟩ := exec_fault h
    · cases hφ
    · cases hφ
    · rw [Exception.toFault_exception] at hφ
      subst hφ
      obtain hss | hgp | ⟨-, hac, hodd⟩ | ⟨code, a, hpf⟩ := State.checkM16_some hf
      · cases hss
      · cases hgp
      · exact ⟨hac, ll, m, h3, hodd⟩
      · cases hpf
    · rw [State.trapFault_exception] at hφ
      split_ifs at hφ
  case fetch =>
    obtain hgp | ⟨code, a, hpf⟩ := State.fetchByte_error h
    · cases hgp
    · cases hpf

/-- Settles O46: both faults apply, and `acBeforePf` decides. -/
theorem alignmentBesidePageFault : Obligations.AlignmentBesidePageFault := by
  intro i s ll m code a he hl hm h3 hc hc' hac hodd ht
  have hp : s.pageFault16 (s.linearAddress i.ops m) = some (.pf code a) := by
    obtain hlow | ⟨hlow, hhigh⟩ := ht
    · exact State.pageFault16_low hlow
    · exact (State.pageFault16_high hlow).trans hhigh
  have hexec := exec_of_accessFault he hl hm h3
    (State.checkM16_align_page hc hc' (State.alignFault_some.2 ⟨rfl, hac, hodd⟩) hp)
  have hfirst (h : s.acBeforePf = true) : exec i s = .fault (.ac s) := by rwa [if_pos h] at hexec
  have hsecond (h : s.acBeforePf = false) : exec i s = .fault (.pf code a s) := by
    rwa [if_neg (ne_true_of_eq_false h)] at hexec
  refine ⟨fun ho => hfirst (by rw [State.acBeforePf, ho]), fun ho => hsecond (by rw [State.acBeforePf, ho]),
    fun _ => ?_⟩
  cases hb : s.acBeforePf with
  | true => exact .inl (hfirst hb)
  | false => exact .inr (hsecond hb)

/-- Settles O47: a trap raises `trapFault`, and #XM comes from a trap alone. -/
theorem unmaskedFloatingPointException : Obligations.UnmaskedFloatingPointException := by
  refine ⟨fun i s b f he hl hm hb ho => ⟨s.signal f, ?_, rfl, orFlags_flags _ _, orFlags_control _ _⟩,
    fun i s u h => ?_, rfl⟩
  · rw [exec_of_trap he hl hm hb ho, State.trapFault_eq]
  · obtain ⟨-, hud⟩ | ⟨-, hnm⟩ | ⟨ll, m, e, -, hf, hφ⟩ | ⟨hm, b, f, hb, ho, -⟩ := exec_fault h
    · cases hud
    · cases hnm
    · obtain rfl | rfl | ⟨rfl, -, -⟩ | ⟨code, a, rfl⟩ := State.checkM16_some hf <;> cases hφ
    · obtain ⟨hsae, hunmasked⟩ := State.outcome_trap ho
      refine ⟨hm, fun s3 rm h3 => ?_, b, f, hb, ho, hunmasked⟩
      rw [h3] at hsae
      cases hsae

/-- Settles O41: each conjunct of R203 is a bit. -/
theorem notUsableIsUd : Obligations.NotUsableIsUd :=
  fun i s => ⟨by simp [State.fp16Usable, and_assoc], exec_of_not_usable⟩

/-- Settles O42: of the exceptions an instruction can raise, #NM is that of CR0.TS alone. -/
theorem taskSwitchedIsNm : Obligations.TaskSwitchedIsNm := by
  refine ⟨fun i s => exec_of_task_switched, fun i s u h => ?_, rfl⟩
  obtain ⟨-, hud⟩ | ⟨hts, -⟩ | ⟨ll, m, e, -, hf, hφ⟩ | ⟨-, b, f, -, -, hφ⟩ := exec_fault h
  · cases hud
  · exact hts
  · obtain rfl | rfl | ⟨rfl, -, -⟩ | ⟨code, a, rfl⟩ := State.checkM16_some hf <;> cases hφ
  · rw [State.trapFault_eq] at hφ
    split_ifs at hφ

end Sys2Proof.Machine
end

section
/-! The run and its end (R246), what a launch places and software sets up (R241, R243), the machine after reset (R240),
and the model's free choices (R250). -/

namespace Sys2Proof.Machine

/-! ## The run and its end (R246) -/

section
variable {s t : State} (n : Nat)

@[simp] theorem run_zero (s : State) : run 0 s = .running s := rfl

theorem run_succ_of_end (h : step s = .next t) (hend : t.rip = t.cfg.codeEnd) : run (n + 1) s = .ended t := by
  simp [run, h, hend]

theorem run_succ_of_next (h : step s = .next t) (hgo : t.rip ≠ t.cfg.codeEnd) : run (n + 1) s = run n t := by
  simp [run, h, hgo]

theorem run_succ_of_fault {φ : Fault} (h : step s = .fault φ) : run (n + 1) s = .faulted φ := by
  simp [run, h]

theorem run_succ_of_refused {r : Refusal} (h : step s = .refused r) : run (n + 1) s = .refused r := by
  simp [run, h]

end

/-- At most `m` more steps of a run that stands so. -/
def RunOutcome.more (m : Nat) : RunOutcome → RunOutcome
  | .running t => run m t
  | .ended t => .ended t
  | .faulted φ => .faulted φ
  | .refused r => .refused r

/-- A run goes on from where it stands, and has no more steps once it has ended. -/
theorem run_add (n m : Nat) (s : State) : run (n + m) s = (run n s).more m := by
  induction n generalizing s with
  | zero => rw [Nat.zero_add]; rfl
  | succ n ih =>
    rw [Nat.succ_add_eq_add_succ, Nat.add_succ]
    cases hs : step s with
    | next t =>
      by_cases hend : t.rip = t.cfg.codeEnd
      · rw [run_succ_of_end _ hs hend, run_succ_of_end _ hs hend]; rfl
      · rw [run_succ_of_next _ hs hend, run_succ_of_next _ hs hend, ih]
    | fault φ => rw [run_succ_of_fault _ hs, run_succ_of_fault _ hs]; rfl
    | refused r => rw [run_succ_of_refused _ hs, run_succ_of_refused _ hs]; rfl

/-- A run ends normally at `CODE_END` alone. -/
theorem rip_of_run_ended {n : Nat} {s t : State} (h : run n s = .ended t) : t.rip = t.cfg.codeEnd := by
  induction n generalizing s with
  | zero => cases h
  | succ n ih =>
    cases hs : step s with
    | next u =>
      by_cases hend : u.rip = u.cfg.codeEnd
      · rw [run_succ_of_end n hs hend] at h
        cases h
        exact hend
      · rw [run_succ_of_next n hs hend] at h
        exact ih h
    | fault φ => rw [run_succ_of_fault n hs] at h; cases h
    | refused r => rw [run_succ_of_refused n hs] at h; cases h

/-- Settles O14: the equations of one step, and `run_add` at each way a run can stand. -/
theorem runEnds : Obligations.RunEnds := by
  have hadd {n : Nat} (m : Nat) {s : State} {o : RunOutcome} (h : run n s = o) : run (n + m) s = o.more m :=
    h ▸ run_add n m s
  exact ⟨run_zero, fun n _ _ => run_succ_of_end n, fun n _ _ => run_succ_of_next n, fun n _ _ => run_succ_of_fault n,
    fun n _ _ => run_succ_of_refused n, fun _ m _ _ h => ⟨hadd m h, rip_of_run_ended h⟩, fun _ m _ _ => hadd m,
    fun _ m _ _ => hadd m, fun _ m _ _ => hadd m⟩

/-! ## Bytes placed in memory (R50, R243) -/

theorem Addr.add_ofNat_succ (a : Addr) (k : Nat) : a + BitVec.ofNat 64 (k + 1) = a + 1 + BitVec.ofNat 64 k := by
  rw [Nat.add_comm k, BitVec.ofNat_add, ← BitVec.add_assoc]
  rfl

/-- Storing bytes leaves every other byte alone. -/
theorem Memory.read_writeBytes_other (m : Memory) {a b : Addr} {vs : List Byte}
    (h : ∀ k < vs.length, b ≠ a + BitVec.ofNat 64 k) :
    Memory.read (Memory.writeBytes m a vs) b.toNat = Memory.read m b.toNat := by
  induction vs generalizing m a with
  | nil => rfl
  | cons v vs ih =>
    have hhead : b ≠ a := by simpa using h 0 (by simp)
    have htail : ∀ k < vs.length, b ≠ a + 1 + BitVec.ofNat 64 k := fun k hk =>
      Addr.add_ofNat_succ a k ▸ h (k + 1) (Nat.succ_lt_succ hk)
    rw [Memory.writeBytes, ih _ htail, Memory.read_write_other m v fun e => hhead (BitVec.eq_of_toNat_eq e)]

/-- At most 2^64 bytes do not overlap: each is read at its address modulo 2^64. -/
theorem Memory.read_writeBytes_getElem {m : Memory} (hm : Memory.wf m) (a : Addr) {vs : List Byte}
    (hlen : vs.length ≤ 2 ^ 64) {k : Nat} (hk : k < vs.length) :
    Memory.read (Memory.writeBytes m a vs) (a + BitVec.ofNat 64 k).toNat = vs[k] := by
  induction vs generalizing m a k with
  | nil => cases hk
  | cons v vs ih =>
    rw [List.length_cons] at hlen hk
    rw [Memory.writeBytes]
    cases k with
    | zero =>
      have hfresh : ∀ j < vs.length, a ≠ a + 1 + BitVec.ofNat 64 j := fun j hj => by bv_omega
      rw [BitVec.add_zero, Memory.read_writeBytes_other _ hfresh, Memory.read_write_same hm]
      rfl
    | succ k =>
      rw [Addr.add_ofNat_succ]
      exact ih (Memory.write_wf hm a.isLt v) (a + 1) (by omega) (by omega)

/-- Settles O17: `loadAtRip` stores the bytes and writes no other field. -/
theorem launchPlacesBytes : Obligations.LaunchPlacesBytes := fun s bytes hm hlen =>
  ⟨Memory.writeBytes_wf bytes hm s.rip, fun _ hk => Memory.read_writeBytes_getElem hm s.rip hlen hk,
    fun _ => Memory.read_writeBytes_other s.mem, rfl⟩

/-! ## The machine after reset (R240) -/

/-- R39: CR4.OSXSAVE and CR0.PE, among others, are 0 after reset. -/
theorem State.reset_not_usable : State.reset.fp16Usable = false := by decide

theorem State.loadAtRip_reset_admissible (bytes : List Byte) : (State.reset.loadAtRip bytes).admissible = true :=
  resetHasInv.2

/-- Up to 15 bytes placed at `rip` after reset are fetched: their addresses from FFF0H on are canonical, and `Translate`
refuses no range (log 11). -/
theorem State.fetchByte_loadAtRip_reset {bytes : List Byte} (hlen : bytes.length ≤ 15) {k : Nat}
    (hk : k < bytes.length) : (State.reset.loadAtRip bytes).fetchByte k = .ok bytes[k] := by
  have hcanonical : ∀ j < 15, canonical .va48 (State.reset.rip + BitVec.ofNat 64 j) = true := by decide
  obtain ⟨-, hread, -⟩ := launchPlacesBytes State.reset bytes State.reset_mem_wf (by omega)
  exact State.fetchByte_ok.2 ⟨hcanonical k (by omega), rfl, (hread k hk).symm⟩

/-- Settles O16: the encoding is fetched and decoded to its instruction, which is not usable. -/
theorem resetRaisesUd : Obligations.ResetRaisesUd := by
  intro i hwf
  have hlen : (encode i).length ≤ 15 := by
    obtain ⟨-, -, -, -, hle⟩ := Operands.wf_iff.1 hwf
    exact (Laws.encode_length_of i).trans_le hle
  have hbytes (k : Nat) (hk : k < (encode i).length) := State.fetchByte_loadAtRip_reset hlen hk
  obtain ⟨hstep, hexist⟩ := stepRunsTheDecodedInstruction _ i (State.loadAtRip_reset_admissible _) hwf hbytes
  exact (hstep (hexist rfl rfl)).trans (exec_of_not_usable State.reset_not_usable)

/-! ## What software sets up at boot (R241, R244) -/

section
variable (y : System)

/-- PE is set and TS clear. -/
theorem System.boot_cr0 : y.boot.cr0.getLsbD 0 = true ∧ y.boot.cr0.getLsbD 3 = false := by
  simp [System.boot]

/-- OSXMMEXCPT and OSXSAVE are set. -/
theorem System.boot_cr4 : y.boot.cr4.getLsbD 10 = true ∧ y.boot.cr4.getLsbD 18 = true := by
  simp [System.boot]

/-- The SSE, AVX, opmask, ZMM_Hi256 and Hi16_ZMM states are enabled. -/
theorem System.boot_xcr0 : y.boot.xcr0.getLsbD 1 = true ∧ y.boot.xcr0.getLsbD 2 = true ∧
    y.boot.xcr0.getLsbD 5 = true ∧ y.boot.xcr0.getLsbD 6 = true ∧ y.boot.xcr0.getLsbD 7 = true := by
  simp [System.boot]

/-- VM is clear. -/
theorem System.boot_rflags : y.boot.rflags.getLsbD 17 = false := by
  simp [System.boot]

end

/-- Settles O18: each bit that `fp16Usable`, `cr0TS` and `osxmmexcpt` read is one that the boot writes. -/
theorem bootEnables : Obligations.BootEnables := by
  intro s
  obtain ⟨hpe, hts⟩ := s.sys.boot_cr0
  obtain ⟨hxm, hosxsave⟩ := s.sys.boot_cr4
  have hcpuid : s.sys.boot.cpuidFp16 = true := rfl
  have husable : s.boot.fp16Usable = true := by
    simp only [State.fp16Usable, State.boot_sys, hcpuid, hosxsave, s.sys.boot_xcr0, hpe, s.sys.boot_rflags,
      Bool.and_true, Bool.not_false]
  exact ⟨⟨husable, hts⟩, hxm⟩

/-! ## The free choices (R250, log 6) -/

/-- The same outcome with the number of consumed choices set, in the next state and in the state at a fault. -/
def outcomeSetDraws (n : Nat) : Host.Outcome State Fault Refusal → Host.Outcome State Fault Refusal
  | .next t => .next (t.setDraws n)
  | .fault φ => raise φ.exception (φ.final.setDraws n)
  | .refused r => .refused r

section
variable {ops : Operands} {s : State} (n : Nat)

theorem raise_setDraws (e : Exception) (s : State) : raise e (s.setDraws n) = outcomeSetDraws n (raise e s) := by
  simp [outcomeSetDraws]

theorem finish_setDraws (ops : Operands) (out : FmsOutcome) (s : State) :
    finish ops out (s.setDraws n) = outcomeSetDraws n (finish ops out s) := by
  cases out with
  | trap f => exact raise_setDraws n _ (s.signal f)
  | result r f => rfl

/-- Whether an access faults is no free choice; which of its faults is reported may be one (log 5). -/
theorem State.accessFault_setDraws {m : MemOperand} (h : s.accessFault ops m = none) :
    (s.setDraws n).accessFault ops m = none := by
  have hpass := State.checkM16_none.1 h
  exact State.checkM16_none.2 hpass

variable (h : ∀ ll m, ops.src3 = .mem ll m → s.accessFault ops m = none)
include h

theorem State.readSrc3_setDraws : (s.setDraws n).readSrc3 ops = s.readSrc3 ops := by
  cases h3 : ops.src3 with
  | reg s3 rc => rw [State.readSrc3_reg h3, State.readSrc3_reg h3]; rfl
  | mem ll m =>
    have hs := h ll m h3
    simp only [State.readSrc3, h3, hs, State.accessFault_setDraws n hs]
    rfl

/-- Without an access that would fault, the counter reaches the outcome only where it is handed on. -/
theorem execFms_setDraws (neg : Bool) (order : OperandOrder) :
    execFms neg order ops (s.setDraws n) = outcomeSetDraws n (execFms neg order ops s) := by
  have hmasked : s.maskedOffSrc3 ops = .ok s.draws :=
    State.maskedOffSrc3_of_no_access fun ll m h3 => .inl (h ll m h3)
  have hmasked' : (s.setDraws n).maskedOffSrc3 ops = .ok n :=
    State.maskedOffSrc3_of_no_access fun ll m h3 => .inl (State.accessFault_setDraws n (h ll m h3))
  unfold execFms
  rw [State.readSrc3_setDraws n h, hmasked, hmasked', apply_ite (outcomeSetDraws n), apply_ite (outcomeSetDraws n),
    apply_ite (outcomeSetDraws n)]
  refine if_congr .rfl (raise_setDraws n _ s) (if_congr .rfl (raise_setDraws n _ s) (if_congr .rfl ?unmasked rfl))
  case unmasked =>
    cases s.readSrc3 ops with
    | error e => exact raise_setDraws n e s
    | ok b => exact finish_setDraws n ops _ s

end

/-- Settles O34: the outcome is the same with the counter set, by `execFms_setDraws`. -/
theorem choicesMatterOnlyWhereAnAccessFaults : Obligations.ChoicesMatterOnlyWhereAnAccessFaults := by
  intro i s n h
  have hexec : exec i (s.setDraws n) = outcomeSetDraws n (exec i s) := by
    rw [exec_eq_execFms, exec_eq_execFms]
    exact execFms_setDraws n h _ _
  refine ⟨fun t ht => by rw [hexec, ht]; rfl, fun φ hφ => ?_⟩
  rw [hexec, hφ]
  exact ⟨_, rfl, Exception.toFault_exception .., Exception.toFault_final ..⟩

end Sys2Proof.Machine
end
